-- ==== Sys2Proof/Word.lean ====
section
/-! DEFINITION. The word types of Chip8-CS CORE (00_scope.md R4 to R6) and the tuple of decoded fields (30_encoding.md R81). -/

namespace Sys2Proof

/-- A memory byte, a general register or a timer: 8 bits (R4). -/
abbrev Byte := BitVec 8

/-- An instruction word, the index register, the program counter or a stack entry: 16 bits (R4). -/
abbrev Word := BitVec 16

/-- A register number: the 4-bit field `x` or `y` (R20). -/
abbrev Reg := BitVec 4

/-- The 4-bit row count `n` of `DXYN` and any other nibble (R81). -/
abbrev Nibble := BitVec 4

/-- The 12-bit immediate `nnn` (R83). -/
abbrev Addr12 := BitVec 12

/-- The six fields decode extracts from every word (R81). They overlap: `nn` is `y ‖ n`, `nnn` is `x ‖ y ‖ n`. -/
structure Fields where
  fam : Nibble
  x   : Reg
  y   : Reg
  n   : Nibble
  nn  : Byte
  nnn : Addr12
  deriving DecidableEq, Repr

end Sys2Proof
end

