-- ==== Sys2Proof/Syntax.lean ====
section
/-! DEFINITION. The instructions of Chip8-CS CORE: one constructor per row of the opcode map (30_encoding.md R84), named by its pattern, which is the spec's name of the instruction (R90). -/

namespace Sys2Proof

/-- The 34 instructions (R84). Every operand has the type of its field, so none can be out of range (R81, R83). -/
inductive Instr where
  | op00E0                            -- CLS
  | op00EE                            -- RET
  | op1NNN (nnn : Addr12)             -- JP nnn
  | op2NNN (nnn : Addr12)             -- CALL nnn
  | op3XNN (x : Reg) (nn : Byte)      -- SE Vx, nn
  | op4XNN (x : Reg) (nn : Byte)      -- SNE Vx, nn
  | op5XY0 (x y : Reg)                -- SE Vx, Vy
  | op6XNN (x : Reg) (nn : Byte)      -- LD Vx, nn
  | op7XNN (x : Reg) (nn : Byte)      -- ADD Vx, nn
  | op8XY0 (x y : Reg)                -- LD Vx, Vy
  | op8XY1 (x y : Reg)                -- OR Vx, Vy
  | op8XY2 (x y : Reg)                -- AND Vx, Vy
  | op8XY3 (x y : Reg)                -- XOR Vx, Vy
  | op8XY4 (x y : Reg)                -- ADD Vx, Vy
  | op8XY5 (x y : Reg)                -- SUB Vx, Vy
  | op8XY6 (x y : Reg)                -- SHR Vx      (y is encoded and ignored)
  | op8XY7 (x y : Reg)                -- SUB7 Vx, Vy
  | op8XYE (x y : Reg)                -- SHL Vx      (y is encoded and ignored)
  | op9XY0 (x y : Reg)                -- SNE Vx, Vy
  | opANNN (nnn : Addr12)             -- LD I, nnn
  | opBNNN (nnn : Addr12)             -- JP V0, nnn
  | opCXNN (x : Reg) (nn : Byte)      -- RND Vx, nn
  | opDXYN (x y : Reg) (n : Nibble)   -- DRW Vx, Vy, n
  | opEX9E (x : Reg)                  -- SKP Vx
  | opEXA1 (x : Reg)                  -- SKNP Vx
  | opFX07 (x : Reg)                  -- LD Vx, DT
  | opFX0A (x : Reg)                  -- LD Vx, K
  | opFX15 (x : Reg)                  -- LD DT, Vx
  | opFX18 (x : Reg)                  -- LD ST, Vx
  | opFX1E (x : Reg)                  -- ADD I, Vx
  | opFX29 (x : Reg)                  -- LD F, Vx
  | opFX33 (x : Reg)                  -- LD B, Vx
  | opFX55 (x : Reg)                  -- LD [I], Vx
  | opFX65 (x : Reg)                  -- LD Vx, [I]
  deriving DecidableEq, Repr

end Sys2Proof
end

