-- ==== Sys2Proof/Config.lean ====
section
/-! DEFINITION. The sizes Chip8-CS CORE fixes (00_scope.md R4) and its one free value, the byte `CXNN` draws. The font table, a parameter with a default, is the field `font` of the state (Machine/Font.lean). -/

namespace Sys2Proof.Config

/-- Bytes of memory, addresses 0x000 to 0xFFF (R4, R50). -/
def memSize : Nat := 4096

/-- Where a program is loaded (R4, R58). -/
def progBase : Nat := 0x200

/-- The longest program, in bytes (R4, R58). -/
def progMax : Nat := 0xE00

/-- Where execution begins after reset (R4, R38). -/
def resetPc : Word := 0x200

/-- Bytes per font glyph (R4, R51). -/
def glyphStride : Nat := 5

/-- Columns and rows of the framebuffer (R4, R152). -/
def fbWidth : Nat := 64

/-- Rows of the framebuffer (R4, R152). -/
def fbHeight : Nat := 32

/-- The byte of the `k`-th draw of `CXNN`: a FREE VALUE, under no law (R34, R132, D19, U1). It has no body, so
nothing can be proved about any draw, nor that two draws agree or differ. Log entry 2. -/
opaque rand8 : Nat → Byte

end Sys2Proof.Config
end

