-- ==== Sys2Proof/WellFormed.lean ====
section
/-! DEFINITION. What is well formed: a field tuple, an instruction, a program image. -/

namespace Sys2Proof

/-- A field tuple is well formed when its overlapping fields agree: `nn = y ‖ n` and `nnn = x ‖ y ‖ n` (R81). -/
def Fields.wellFormed (f : Fields) : Bool :=
  f.nn == f.y ++ f.n && f.nnn == f.x ++ f.y ++ f.n

/-- Every term of `Instr` is well formed: each operand's type has exactly the width of its field, and no operand
value is reserved (R83, R85), so there is nothing left to check. Log entry 26. -/
def Instr.wellFormed (_ : Instr) : Bool := true

/-- A program image the driver may load: at most 0xE00 bytes (R58, duty (e) of R205). -/
def programWellFormed (image : List Byte) : Bool := decide (image.length ≤ Config.progMax)

end Sys2Proof
end

