-- ==== Sys2Proof/Decode.lean ====
section
/-! DEFINITION. Decoding and encoding (30_encoding.md R80 to R91): the field extraction, which never fails, the selection of an instruction, the encoder, and the opcode map of R84 as data. -/

namespace Sys2Proof

/-! ## Decoding -/

/-- Field extraction (R81, R88): total, a pure function of the 16 bits. -/
def decodeFields (w : Word) : Fields where
  fam := w.extractLsb' 12 4
  x   := w.extractLsb' 8 4
  y   := w.extractLsb' 4 4
  n   := w.extractLsb' 0 4
  nn  := w.extractLsb' 0 8
  nnn := w.extractLsb' 0 12

/-- Family 8: the function is the low nibble (R82, R84 rows 10 to 18). -/
def selectArithmetic (x y : Reg) (n : Nibble) : Option Instr :=
  match n with
  | 0x0#4 => some (.op8XY0 x y)
  | 0x1#4 => some (.op8XY1 x y)
  | 0x2#4 => some (.op8XY2 x y)
  | 0x3#4 => some (.op8XY3 x y)
  | 0x4#4 => some (.op8XY4 x y)
  | 0x5#4 => some (.op8XY5 x y)
  | 0x6#4 => some (.op8XY6 x y)
  | 0x7#4 => some (.op8XY7 x y)
  | 0xE#4 => some (.op8XYE x y)
  | _     => none

/-- Family 0xF: the function is the low byte (R82, R84 rows 26 to 34). -/
def selectMisc (x : Reg) (nn : Byte) : Option Instr :=
  match nn with
  | 0x07#8 => some (.opFX07 x)
  | 0x0A#8 => some (.opFX0A x)
  | 0x15#8 => some (.opFX15 x)
  | 0x18#8 => some (.opFX18 x)
  | 0x1E#8 => some (.opFX1E x)
  | 0x29#8 => some (.opFX29 x)
  | 0x33#8 => some (.opFX33 x)
  | 0x55#8 => some (.opFX55 x)
  | 0x65#8 => some (.opFX65 x)
  | _      => none

/-- Dispatch on the family nibble and, where the opcode map fixes more bits, on those (R84, decision D3, C7). -/
def select (f : Fields) : Option Instr :=
  match f.fam with
  | 0x0#4 =>
    match f.nnn with
    | 0x0E0#12 => some .op00E0
    | 0x0EE#12 => some .op00EE
    | _        => none
  | 0x1#4 => some (.op1NNN f.nnn)
  | 0x2#4 => some (.op2NNN f.nnn)
  | 0x3#4 => some (.op3XNN f.x f.nn)
  | 0x4#4 => some (.op4XNN f.x f.nn)
  | 0x5#4 => if f.n = 0x0 then some (.op5XY0 f.x f.y) else none
  | 0x6#4 => some (.op6XNN f.x f.nn)
  | 0x7#4 => some (.op7XNN f.x f.nn)
  | 0x8#4 => selectArithmetic f.x f.y f.n
  | 0x9#4 => if f.n = 0x0 then some (.op9XY0 f.x f.y) else none
  | 0xA#4 => some (.opANNN f.nnn)
  | 0xB#4 => some (.opBNNN f.nnn)
  | 0xC#4 => some (.opCXNN f.x f.nn)
  | 0xD#4 => some (.opDXYN f.x f.y f.n)
  | 0xE#4 =>
    match f.nn with
    | 0x9E#8 => some (.opEX9E f.x)
    | 0xA1#8 => some (.opEXA1 f.x)
    | _      => none
  | 0xF#4 => selectMisc f.x f.nn
  | _     => none

/-- Why bytes give no instruction. -/
inductive DecodeError where
  /-- The word matches no row of the opcode map (R85); `Step` reports it as `UnknownOpcode`. -/
  | unknownOpcode
  /-- Fewer than two bytes: no word. The machine never meets it, since a fetch moves two bytes or fails (R55). -/
  | truncated
  deriving DecidableEq, Repr

/-- The instruction a word selects, or its rejection by name (R84, R85). -/
def decode (w : Word) : Except DecodeError Instr :=
  match select (decodeFields w) with
  | some i => .ok i
  | none   => .error .unknownOpcode

/-- The word in two bytes, the first being the high byte (R56, R80). -/
def wordOfBytes (hi lo : Byte) : Word := hi ++ lo

/-- Decoding on any bytes: the instruction and the bytes after it, or a rejection by name. Every instruction is
two bytes (R80, R89). -/
def decodeBytes : List Byte → Except DecodeError (Instr × List Byte)
  | hi :: lo :: rest =>
    match decode (wordOfBytes hi lo) with
    | .ok i    => .ok (i, rest)
    | .error e => .error e
  | _ => .error .truncated

/-! ## Encoding -/

/-- The word of an instruction, nibble by nibble as R82 and R84 lay it out. -/
def encode : Instr → Word
  | .op00E0         => 0x00E0#16
  | .op00EE         => 0x00EE#16
  | .op1NNN nnn     => 0x1#4 ++ nnn
  | .op2NNN nnn     => 0x2#4 ++ nnn
  | .op3XNN x nn    => 0x3#4 ++ x ++ nn
  | .op4XNN x nn    => 0x4#4 ++ x ++ nn
  | .op5XY0 x y     => 0x5#4 ++ x ++ y ++ 0x0#4
  | .op6XNN x nn    => 0x6#4 ++ x ++ nn
  | .op7XNN x nn    => 0x7#4 ++ x ++ nn
  | .op8XY0 x y     => 0x8#4 ++ x ++ y ++ 0x0#4
  | .op8XY1 x y     => 0x8#4 ++ x ++ y ++ 0x1#4
  | .op8XY2 x y     => 0x8#4 ++ x ++ y ++ 0x2#4
  | .op8XY3 x y     => 0x8#4 ++ x ++ y ++ 0x3#4
  | .op8XY4 x y     => 0x8#4 ++ x ++ y ++ 0x4#4
  | .op8XY5 x y     => 0x8#4 ++ x ++ y ++ 0x5#4
  | .op8XY6 x y     => 0x8#4 ++ x ++ y ++ 0x6#4
  | .op8XY7 x y     => 0x8#4 ++ x ++ y ++ 0x7#4
  | .op8XYE x y     => 0x8#4 ++ x ++ y ++ 0xE#4
  | .op9XY0 x y     => 0x9#4 ++ x ++ y ++ 0x0#4
  | .opANNN nnn     => 0xA#4 ++ nnn
  | .opBNNN nnn     => 0xB#4 ++ nnn
  | .opCXNN x nn    => 0xC#4 ++ x ++ nn
  | .opDXYN x y n   => 0xD#4 ++ x ++ y ++ n
  | .opEX9E x       => 0xE#4 ++ x ++ 0x9E#8
  | .opEXA1 x       => 0xE#4 ++ x ++ 0xA1#8
  | .opFX07 x       => 0xF#4 ++ x ++ 0x07#8
  | .opFX0A x       => 0xF#4 ++ x ++ 0x0A#8
  | .opFX15 x       => 0xF#4 ++ x ++ 0x15#8
  | .opFX18 x       => 0xF#4 ++ x ++ 0x18#8
  | .opFX1E x       => 0xF#4 ++ x ++ 0x1E#8
  | .opFX29 x       => 0xF#4 ++ x ++ 0x29#8
  | .opFX33 x       => 0xF#4 ++ x ++ 0x33#8
  | .opFX55 x       => 0xF#4 ++ x ++ 0x55#8
  | .opFX65 x       => 0xF#4 ++ x ++ 0x65#8

/-- The bytes of a word as memory holds them: the high byte first, at the lower address (R56, R80). -/
def bytesOfWord (w : Word) : List Byte := [w.extractLsb' 8 8, w.extractLsb' 0 8]

/-! ## The opcode map as data -/

/-- The six formats (R82). -/
inductive Format where
  | fix | nnn | xnn | xyf | xyn | xff
  deriving DecidableEq, Repr

/-- A row of the opcode map: a word `w` selects it when `w AND mask = bits` (R84). -/
structure OpcodeRow where
  pattern : String
  format  : Format
  mask    : Word
  bits    : Word
  deriving DecidableEq, Repr

/-- Does the word select the row (R84)? -/
def OpcodeRow.selects (r : OpcodeRow) (w : Word) : Bool := w &&& r.mask == r.bits

/-- The opcode map, rows 1 to 9 of R84. -/
def opcodeRowsLow : List OpcodeRow := [
  ⟨"00E0", .fix, 0xFFFF, 0x00E0⟩,
  ⟨"00EE", .fix, 0xFFFF, 0x00EE⟩,
  ⟨"1NNN", .nnn, 0xF000, 0x1000⟩,
  ⟨"2NNN", .nnn, 0xF000, 0x2000⟩,
  ⟨"3XNN", .xnn, 0xF000, 0x3000⟩,
  ⟨"4XNN", .xnn, 0xF000, 0x4000⟩,
  ⟨"5XY0", .xyf, 0xF00F, 0x5000⟩,
  ⟨"6XNN", .xnn, 0xF000, 0x6000⟩,
  ⟨"7XNN", .xnn, 0xF000, 0x7000⟩]

/-- The opcode map, rows 10 to 23 of R84. -/
def opcodeRowsMid : List OpcodeRow := [
  ⟨"8XY0", .xyf, 0xF00F, 0x8000⟩,
  ⟨"8XY1", .xyf, 0xF00F, 0x8001⟩,
  ⟨"8XY2", .xyf, 0xF00F, 0x8002⟩,
  ⟨"8XY3", .xyf, 0xF00F, 0x8003⟩,
  ⟨"8XY4", .xyf, 0xF00F, 0x8004⟩,
  ⟨"8XY5", .xyf, 0xF00F, 0x8005⟩,
  ⟨"8XY6", .xyf, 0xF00F, 0x8006⟩,
  ⟨"8XY7", .xyf, 0xF00F, 0x8007⟩,
  ⟨"8XYE", .xyf, 0xF00F, 0x800E⟩,
  ⟨"9XY0", .xyf, 0xF00F, 0x9000⟩,
  ⟨"ANNN", .nnn, 0xF000, 0xA000⟩,
  ⟨"BNNN", .nnn, 0xF000, 0xB000⟩,
  ⟨"CXNN", .xnn, 0xF000, 0xC000⟩,
  ⟨"DXYN", .xyn, 0xF000, 0xD000⟩]

/-- The opcode map, rows 24 to 34 of R84. -/
def opcodeRowsHigh : List OpcodeRow := [
  ⟨"EX9E", .xff, 0xF0FF, 0xE09E⟩,
  ⟨"EXA1", .xff, 0xF0FF, 0xE0A1⟩,
  ⟨"FX07", .xff, 0xF0FF, 0xF007⟩,
  ⟨"FX0A", .xff, 0xF0FF, 0xF00A⟩,
  ⟨"FX15", .xff, 0xF0FF, 0xF015⟩,
  ⟨"FX18", .xff, 0xF0FF, 0xF018⟩,
  ⟨"FX1E", .xff, 0xF0FF, 0xF01E⟩,
  ⟨"FX29", .xff, 0xF0FF, 0xF029⟩,
  ⟨"FX33", .xff, 0xF0FF, 0xF033⟩,
  ⟨"FX55", .xff, 0xF0FF, 0xF055⟩,
  ⟨"FX65", .xff, 0xF0FF, 0xF065⟩]

/-- The opcode map of R84: 34 rows. -/
def opcodeMap : List OpcodeRow := opcodeRowsLow ++ opcodeRowsMid ++ opcodeRowsHigh

/-- The pattern that names the instruction (R84, R90). -/
def patternOf : Instr → String
  | .op00E0       => "00E0"
  | .op00EE       => "00EE"
  | .op1NNN _     => "1NNN"
  | .op2NNN _     => "2NNN"
  | .op3XNN _ _   => "3XNN"
  | .op4XNN _ _   => "4XNN"
  | .op5XY0 _ _   => "5XY0"
  | .op6XNN _ _   => "6XNN"
  | .op7XNN _ _   => "7XNN"
  | .op8XY0 _ _   => "8XY0"
  | .op8XY1 _ _   => "8XY1"
  | .op8XY2 _ _   => "8XY2"
  | .op8XY3 _ _   => "8XY3"
  | .op8XY4 _ _   => "8XY4"
  | .op8XY5 _ _   => "8XY5"
  | .op8XY6 _ _   => "8XY6"
  | .op8XY7 _ _   => "8XY7"
  | .op8XYE _ _   => "8XYE"
  | .op9XY0 _ _   => "9XY0"
  | .opANNN _     => "ANNN"
  | .opBNNN _     => "BNNN"
  | .opCXNN _ _   => "CXNN"
  | .opDXYN _ _ _ => "DXYN"
  | .opEX9E _     => "EX9E"
  | .opEXA1 _     => "EXA1"
  | .opFX07 _     => "FX07"
  | .opFX0A _     => "FX0A"
  | .opFX15 _     => "FX15"
  | .opFX18 _     => "FX18"
  | .opFX1E _     => "FX1E"
  | .opFX29 _     => "FX29"
  | .opFX33 _     => "FX33"
  | .opFX55 _     => "FX55"
  | .opFX65 _     => "FX65"

/-! ## The host's question -/

/-- The instruction this decoder reads from an instruction whose bits are `w`. There is one instruction word (R80),
so bit 0 of `w` is its least significant bit; it is laid out big-endian (R56) and given to the decoder. -/
def decodeTableWord (nbits w : Nat) : Option Instr :=
  match decodeBytes (bytesOfWord (BitVec.ofNat 16 (w % 2 ^ nbits))) with
  | .ok (i, _) => some i
  | .error _   => none

end Sys2Proof
end

