-- ==== Sys2Proof/Machine/Font.lean ====
section
/-! DEFINITION. The font table `FONTSET[0..79]` (20_memory.md R52): its type, and the default the spec gives it. -/

namespace Sys2Proof.Machine

/-- `FONTSET[0..79]`: 16 glyphs of 5 bytes, glyph `d` in bytes `5d` to `5d + 4` (R4, R52). The spec makes it a parameter of
the machine (D20, U10); the machine's own table is the field `font` of the state. -/
abbrev Font := Vector Byte 80

/-- The table of R52, glyph by glyph. -/
def fontBytes : List Byte :=
  [0xF0, 0x90, 0x90, 0x90, 0xF0] ++ [0x20, 0x60, 0x20, 0x20, 0x70] ++
  [0xF0, 0x10, 0xF0, 0x80, 0xF0] ++ [0xF0, 0x10, 0xF0, 0x10, 0xF0] ++
  [0x90, 0x90, 0xF0, 0x10, 0x10] ++ [0xF0, 0x80, 0xF0, 0x10, 0xF0] ++
  [0xF0, 0x80, 0xF0, 0x90, 0xF0] ++ [0xF0, 0x10, 0x20, 0x40, 0x40] ++
  [0xF0, 0x90, 0xF0, 0x90, 0xF0] ++ [0xF0, 0x90, 0xF0, 0x10, 0xF0] ++
  [0xF0, 0x90, 0xF0, 0x90, 0x90] ++ [0xE0, 0x90, 0xE0, 0x90, 0xE0] ++
  [0xF0, 0x80, 0x80, 0x80, 0xF0] ++ [0xE0, 0x90, 0x90, 0x90, 0xE0] ++
  [0xF0, 0x80, 0xF0, 0x80, 0xF0] ++ [0xF0, 0x80, 0xF0, 0x80, 0x80]

/-- The default of the parameter (R52). PRESUMED: the spec takes these 80 bytes from general knowledge, so a claim
about a byte of a glyph has `s.font = fontset` as a premise. Log entry 1. -/
def fontset : Font := ⟨fontBytes.toArray, rfl⟩

end Sys2Proof.Machine
end

