-- ==== Sys2Proof/Machine/State.lean ====
section
/-! DEFINITION. The state of Chip8-CS CORE (10_state.md R39) as plain data, the ways a step can stop, and the state after reset (R38). -/

namespace Sys2Proof.Machine

/-! ## Errors and stops -/

/-- The `err` output of an operation: no error, or one of the five errors (R170). -/
inductive Err where
  | none
  | outOfBounds
  | stackOverflow
  | stackUnderflow
  | unknownOpcode
  | programTooLarge
  deriving DecidableEq, Repr

/-- The errors of `Step`, each of which ends the run (R170, R176). A fault is SAFE: the spec itself asks a model to
treat every `Step` error as a fault, and the state it leaves is the state before the operation (R174; see `respond`
in Machine/Sequence.lean). -/
inductive Fault where
  /-- Raised by the fetch when `PC > 0xFFE`, and by `DXYN`, `FX33`, `FX55`, `FX65` when a byte they touch lies above
  address 4095 (R171). Safe. -/
  | outOfBounds
  /-- Raised by `2NNN` when `SP = 16` (R103, R171). Safe. -/
  | stackOverflow
  /-- Raised by `00EE` when `SP = 0` (R101, R171). Safe. -/
  | stackUnderflow
  /-- Raised by `Step` when the fetched word matches no row of the opcode map (R85, R171). Safe. -/
  | unknownOpcode
  deriving DecidableEq, Repr

/-- Why the model gives an operation no meaning. -/
inductive Refusal where
  /-- Raised by `exec`'s arm of an instruction that has no meaning yet; no arm raises it. Safe. -/
  | notModelled (mnemonic : String)
  /-- Raised by `step` when an operation other than `Reset` is asked for before the first `Reset`: the spec gives it
  no meaning and asks a model to refuse it (R201, D22, U8). Safe. -/
  | beforeReset
  deriving DecidableEq, Repr

/-! ## The command port -/

/-- The key vector `KEY[0..15]`: one bit a key, 1 when it is down (R10, R31). -/
abbrev KeyVector := Vector Bool 16

/-- The commands of the command port (R9). -/
inductive Command where
  /-- `Reset` (R200). -/
  | reset
  /-- `LoadProgram(bytes)` (R58). -/
  | loadProgram (image : List Byte)
  /-- `Step` with the key snapshot the driver supplies for it (R10, R86). -/
  | step (keys : KeyVector)
  /-- `Tick` (R167). -/
  | tick
  /-- The framebuffer read port: cell index 0 to 2047 (R9, R32). -/
  | readCell (index : Fin 2048)
  deriving DecidableEq, Repr

/-- What an operation returns (R9, R37): `err` from `Step` and `LoadProgram`, `dirty` from `Step`, `beep` from `Step`
and `Tick`, the cell's bit from the read port. An output an operation does not have is left at its neutral value. -/
structure Reply where
  err   : Err  := .none
  dirty : Bool := false
  beep  : Bool := false
  cell  : Bool := false
  deriving DecidableEq, Repr

/-! ## State -/

/-- Memory: the bytes that differ from what `Reset` leaves, by address (see Machine/Memory.lean). -/
abbrev Memory := List Host.Cell

/-- The framebuffer `FB[0..2047]` (R32). -/
abbrev Framebuffer := Vector Bool 2048

/-- The complete state of R39, the machine's parameter, then the model's own fields: the input of the current `Step`, the outputs of the
latest operation, the index of the next free draw, the driver's commands, and whether the first `Reset` is past. -/
structure State where
  /-- `V[0..15]` (R20). -/
  v : Vector Byte 16
  /-- `I` (R22). -/
  i : Word
  /-- `PC` (R23). -/
  pc : Word
  /-- `SP`, the number of live stack entries, 0 to 16 (R25). -/
  sp : Fin 17
  /-- `STK[0..15]` (R24). -/
  stk : Vector Word 16
  /-- `MEM[0..4095]` (R28, R50). -/
  mem : Memory
  /-- `FONTSET[0..79]`, the parameter of R4 and R52 (D20): fixed for a machine, written to memory by `Reset` and changed by
  no operation. A claim about every state ranges over every font. Log entry 1. -/
  font : Font
  /-- `DT`, the delay timer (R29). -/
  dt : Byte
  /-- `ST`, the sound timer (R29). -/
  st : Byte
  /-- `FB[0..2047]` (R32). -/
  fb : Framebuffer
  /-- `AWAIT` (R33). -/
  await : Bool
  /-- `AWAIT_X`, meaningful only while `AWAIT = 1` (R33). -/
  awaitX : Reg
  /-- The key snapshot sampled for this `Step`: an input, not the core's state (R10, R31). Log entry 3. -/
  keys : KeyVector
  /-- How many bytes `CXNN` has drawn: the index of the next free byte `Config.rand8 draws`. Log entry 2. -/
  draws : Nat
  /-- The outputs of the latest operation: not the core's state, read by no instruction (R37). Log entry 5. -/
  reply : Reply
  /-- The driver's next commands, oldest first; when there is none the driver gives `Step` with the keys as they are
  (R8, R9, D29). Log entry 4. -/
  schedule : List Command
  /-- Whether the first `Reset` has happened (R201). Log entry 7. -/
  resetDone : Bool
  deriving DecidableEq, Repr

/-- The machine right after `Reset` (R38, R200). `MEM` lists nothing: every byte reads as reset leaves it. The values
of `I`, `STK` and `AWAIT` are the spec's D21; `AWAIT_X`, which the spec leaves unspecified, and the model's own fields
are this model's choice (log entries 2 to 8). The parameter `FONTSET` is at its default (log entry 1). -/
def State.reset : State where
  v         := Vector.replicate 16 0
  i         := 0
  pc        := Config.resetPc
  sp        := 0
  stk       := Vector.replicate 16 0
  mem       := []
  font      := fontset
  dt        := 0
  st        := 0
  fb        := Vector.replicate 2048 false
  await     := false
  awaitX    := 0
  keys      := Vector.replicate 16 false
  draws     := 0
  reply     := {}
  schedule  := []
  resetDone := true

end Sys2Proof.Machine
end

