-- ==== Sys2Proof/Machine/Memory.lean ====
section
/-! DEFINITION. The memory array (20_memory.md) of a machine with a given font: what an unlisted address reads as, and reading and writing one byte or a run of bytes. Addresses are unbounded integers here; the bounds check is in Machine/Ops.lean. -/

namespace Sys2Proof.Machine

/-- What an address that memory does not list reads as: what `Reset` writes there, the font at 0x000 to 0x04F and 0
above it (R38, R51, R200). -/
def unlisted (font : Font) (a : Nat) : Byte := font[a]?.getD 0

/-- The byte at an address. -/
def Memory.read (font : Font) : Memory → Nat → Byte
  | [], a => unlisted font a
  | (b, v) :: m, a => if b = a then v else Memory.read font m a

/-- Takes every entry of an address out. -/
def Memory.drop (m : Memory) (a : Nat) : Memory := m.filter (fun c => c.1 != a)

/-- Puts an entry in before the first entry of a higher address. -/
def Memory.place : Memory → Nat → Byte → Memory
  | [], a, v => [(a, v)]
  | c :: m, a, v => if a < c.1 then (a, v) :: c :: m else c :: Memory.place m a v

/-- Writes one byte (R54), keeping the canonical form: a byte equal to what the unlisted address reads as is not
listed. -/
def Memory.write (font : Font) (m : Memory) (a : Nat) (v : Byte) : Memory :=
  if v = unlisted font a then Memory.drop m a else Memory.place (Memory.drop m a) a v

/-- Writes bytes at ascending addresses from `a` (R56). -/
def Memory.writeAll (font : Font) : Memory → Nat → List Byte → Memory
  | m, _, [] => m
  | m, a, v :: vs => Memory.writeAll font (Memory.write font m a v) (a + 1) vs

/-- The canonical form from an address on: rising addresses inside memory, no entry equal to the unlisted value. -/
def Memory.wfFrom (font : Font) (lo : Nat) : Memory → Bool
  | [] => true
  | (a, v) :: m => decide (lo ≤ a) && decide (a < Config.memSize) && decide (v ≠ unlisted font a) && Memory.wfFrom font (a + 1) m

/-- The canonical form of memory. -/
def Memory.wf (font : Font) (m : Memory) : Bool := Memory.wfFrom font 0 m

end Sys2Proof.Machine
end

