-- ==== Sys2Proof/Machine/Ops.lean ====
section
/-! DEFINITION. The named operations over registers, stack, memory, timers and framebuffer, raising an error (60_exceptions.md R174), and the commit that ends an instruction (30_encoding.md R86 step S5). -/

namespace Sys2Proof.Machine

/-! ## Registers -/

/-- `V[x]` (R20). -/
def State.reg (s : State) (x : Reg) : Byte := s.v[x.toNat]'(x.isLt)

/-- `V[x] <- b` (R20). No register is hardwired. -/
def State.setReg (s : State) (x : Reg) (b : Byte) : State := { s with v := s.v.set x.toNat b x.isLt }

/-- The register file as a whole. -/
def State.setV (s : State) (v : Vector Byte 16) : State := { s with v := v }

/-- `V[k], V[k+1], ... <- bytes`, registers above 15 not existing (the loop of `FX65`, R145). -/
def State.setRegsFrom (s : State) (k : Nat) : List Byte → State
  | [] => s
  | b :: bs => State.setRegsFrom (s.setV (s.v.setIfInBounds k b)) (k + 1) bs

/-- `V[0], ..., V[x]` in order (the block of `FX55`, R144). -/
def State.regsUpTo (s : State) (x : Reg) : List Byte := s.v.toList.take (x.toNat + 1)

/-- `I <- w` (R22). -/
def State.setI (s : State) (w : Word) : State := { s with i := w }

/-- `DT <- b` (R29). -/
def State.setDT (s : State) (b : Byte) : State := { s with dt := b }

/-- `ST <- b` (R29). -/
def State.setST (s : State) (b : Byte) : State := { s with st := b }

/-- `AWAIT <- b`, `AWAIT_X <- x` (R33). -/
def State.setAwait (s : State) (b : Bool) (x : Reg) : State := { s with await := b, awaitX := x }

/-- `MEM <- m`. -/
def State.setMem (s : State) (m : Memory) : State := { s with mem := m }

/-- `FB <- f`. -/
def State.setFb (s : State) (f : Framebuffer) : State := { s with fb := f }

/-- One draw is used up (R132: "one fresh 8-bit draw"). -/
def State.useDraw (s : State) : State := { s with draws := s.draws + 1 }

/-- The operation's outputs (R37). -/
def State.setReply (s : State) (r : Reply) : State := { s with reply := r }

/-- The key snapshot sampled for this `Step` (R10, R86 step S0). -/
def State.setKeys (s : State) (k : KeyVector) : State := { s with keys := k }

/-- The driver's next commands. -/
def State.setSchedule (s : State) (cs : List Command) : State := { s with schedule := cs }

/-! ## Raising an error, and ending an instruction -/

/-- `raise E`: the one shared operation for every error of a `Step`. The operation ends and reports the error; no
state changes, so there is no state to carry (R174). There is no return from an error (R175). -/
def raise (f : Fault) : Host.Outcome State Fault Refusal := .fault f

/-- The state an instruction leaves once its writes are made: `PC <- np`, and the result is `err = None`, `dirty` as
given, `beep = 0` (R86 step S5). -/
def State.retire (s : State) (np : Word) (dirty : Bool) : State :=
  { s with pc := np, reply := { err := .none, dirty := dirty, beep := false } }

/-- Step S5 of R86: the instruction completes. -/
def State.commit (s : State) (np : Word) (dirty : Bool) : Host.Outcome State Fault Refusal :=
  .next (s.retire np dirty)

/-- Ends an instruction that is no draw, at the next instruction: `opc + 2` (R87), `dirty = 0` (R153). Before the
commit `PC` still holds `opc` (R23). -/
def State.advance (s : State) : Host.Outcome State Fault Refusal := s.commit (s.pc + 2) false

/-- Ends a conditional skip: `opc + 4` if the condition holds, else `opc + 2` (R110). -/
def State.skipIf (s : State) (c : Bool) : Host.Outcome State Fault Refusal :=
  s.commit (if c then s.pc + 4 else s.pc + 2) false

/-! ## Stack -/

/-- `SP` and `STK`. -/
def State.setStack (s : State) (sp : Fin 17) (stk : Vector Word 16) : State := { s with sp := sp, stk := stk }

/-- `Push(v)` (R26). -/
def State.push (s : State) (v : Word) : Except Fault State :=
  if h : s.sp.val < 16 then
    .ok (s.setStack ⟨s.sp.val + 1, Nat.succ_lt_succ h⟩ (s.stk.set s.sp.val v h))
  else .error .stackOverflow

/-- `Pop()`: the address and the state with one entry fewer; the entry keeps its value (R27). -/
def State.pop (s : State) : Except Fault (Word × State) :=
  if h : s.sp.val = 0 then .error .stackUnderflow
  else
    have hlt : s.sp.val - 1 < 16 := by have := s.sp.isLt; omega
    .ok (s.stk[s.sp.val - 1], s.setStack ⟨s.sp.val - 1, Nat.lt_succ_of_lt hlt⟩ s.stk)

/-! ## Memory -/

/-- `MEM[a]`, the address an unbounded integer and the bound not checked (R50). -/
def State.byteAt (s : State) (a : Nat) : Byte := Memory.read s.font s.mem a

/-- `n` bytes at ascending addresses from `a`, the bound not checked (R56). -/
def State.bytesAt (s : State) (a n : Nat) : List Byte := (List.range n).map fun k => s.byteAt (a + k)

/-- Bytes to ascending addresses from `a`, the bound not checked (R56). -/
def State.putBytes (s : State) (a : Nat) (bs : List Byte) : State := s.setMem (Memory.writeAll s.font s.mem a bs)

/-- Does a run of `n` bytes from address `a` lie inside memory? Formed on unbounded integers; a run of no byte touches
nothing (R53, R54, R60, R151 for `n = 0`). -/
def inBounds (a n : Nat) : Bool := decide (n = 0) || decide (a + n ≤ Config.memSize)

/-- `MemRead` of `n` bytes at ascending addresses, all or nothing (R53, R57). -/
def State.loadBytes (s : State) (a n : Nat) : Except Fault (List Byte) :=
  if inBounds a n then .ok (s.bytesAt a n) else .error .outOfBounds

/-- `MemWrite` of bytes at ascending addresses, all or nothing (R54, R57). -/
def State.storeBytes (s : State) (a : Nat) (bs : List Byte) : Except Fault State :=
  if inBounds a bs.length then .ok (s.putBytes a bs) else .error .outOfBounds

/-- `Fetch(pc)` (R55): the big-endian word at `pc`, or `OutOfBounds` when `pc + 1 > 4095`. -/
def State.fetch (s : State) : Except Fault Word :=
  if s.pc.toNat + 1 < Config.memSize then
    .ok (s.byteAt s.pc.toNat ++ s.byteAt (s.pc.toNat + 1))
  else .error .outOfBounds

end Sys2Proof.Machine
end

