-- ==== Sys2Proof/Machine/Flags.lean ====
section
/-! DEFINITION. The flag `VF` (10_state.md R21) and every flag computation (42_alu.md R133). -/

namespace Sys2Proof.Machine

/-- The register number of `VF` (R21). -/
abbrev vf : Reg := 0xF

/-- `VF <- 1` or `0`: a flag is always exactly 0 or 1 (R21). -/
def State.setFlag (s : State) (c : Bool) : State := s.setReg vf (if c then 1 else 0)

/-- The result to `V[x]`, and after it the flag to `VF`, so that the flag wins when `x = 15` (R120, D7). -/
def State.setRegFlag (s : State) (x : Reg) (b : Byte) (c : Bool) : State := (s.setReg x b).setFlag c

/-- The carry of an addition: 1 exactly when the unreduced sum exceeds 255 (R133). -/
def carry (a b : Byte) : Bool := decide (a.toNat + b.toNat > 255)

/-- The no-borrow of a subtraction: 1 exactly when `a >= b` (R133). -/
def noBorrow (a b : Byte) : Bool := decide (a.toNat ≥ b.toNat)

/-- The bit a right shift by one shifts out, `a mod 2` (R133). -/
def lowBit (a : Byte) : Bool := decide (a.toNat % 2 = 1)

/-- The bit a left shift by one shifts out, `a div 128` (R133). -/
def highBit (a : Byte) : Bool := decide (a.toNat / 128 = 1)

end Sys2Proof.Machine
end

