-- ==== Sys2Proof/Machine/Alu.lean ====
section
/-! DEFINITION. The load, arithmetic, logic, shift and random instructions (42_alu.md). Operands are read from the state before any write (R120). -/

namespace Sys2Proof.Machine

/-- `6XNN`: `V[x] <- nn` (R121). -/
def exec6XNN (x : Reg) (nn : Byte) (s : State) : Host.Outcome State Fault Refusal :=
  (s.setReg x nn).advance

/-- `7XNN`: `V[x] <- (V[x] + nn) mod 256`, no flag (R122). -/
def exec7XNN (x : Reg) (nn : Byte) (s : State) : Host.Outcome State Fault Refusal :=
  (s.setReg x (s.reg x + nn)).advance

/-- `8XY0`: `V[x] <- V[y]` (R123). -/
def exec8XY0 (x y : Reg) (s : State) : Host.Outcome State Fault Refusal :=
  (s.setReg x (s.reg y)).advance

/-- `8XY1`: `V[x] <- V[x] OR V[y]`, no flag (R124). -/
def exec8XY1 (x y : Reg) (s : State) : Host.Outcome State Fault Refusal :=
  (s.setReg x (s.reg x ||| s.reg y)).advance

/-- `8XY2`: `V[x] <- V[x] AND V[y]`, no flag (R125). -/
def exec8XY2 (x y : Reg) (s : State) : Host.Outcome State Fault Refusal :=
  (s.setReg x (s.reg x &&& s.reg y)).advance

/-- `8XY3`: `V[x] <- V[x] XOR V[y]`, no flag (R126). -/
def exec8XY3 (x y : Reg) (s : State) : Host.Outcome State Fault Refusal :=
  (s.setReg x (s.reg x ^^^ s.reg y)).advance

/-- `8XY4`: `V[x] <- (V[x] + V[y]) mod 256`, then `VF <-` carry (R127). -/
def exec8XY4 (x y : Reg) (s : State) : Host.Outcome State Fault Refusal :=
  (s.setRegFlag x (s.reg x + s.reg y) (carry (s.reg x) (s.reg y))).advance

/-- `8XY5`: `V[x] <- (V[x] − V[y]) mod 256`, then `VF <-` no-borrow (R128). -/
def exec8XY5 (x y : Reg) (s : State) : Host.Outcome State Fault Refusal :=
  (s.setRegFlag x (s.reg x - s.reg y) (noBorrow (s.reg x) (s.reg y))).advance

/-- `8XY6`: `V[x] <- V[x] div 2`, then `VF <-` old bit 0; `y` is ignored (R129). -/
def exec8XY6 (x _y : Reg) (s : State) : Host.Outcome State Fault Refusal :=
  (s.setRegFlag x (s.reg x >>> 1) (lowBit (s.reg x))).advance

/-- `8XY7`: `V[x] <- (V[x] − V[y]) mod 256`, then `VF <-` no-borrow: as the spec writes it, the same function as
`8XY5` (R130, D9, U3). Log entry 11. -/
def exec8XY7 (x y : Reg) (s : State) : Host.Outcome State Fault Refusal :=
  (s.setRegFlag x (s.reg x - s.reg y) (noBorrow (s.reg x) (s.reg y))).advance

/-- `8XYE`: `V[x] <- (2 × V[x]) mod 256`, then `VF <-` old bit 7; `y` is ignored (R131). -/
def exec8XYE (x _y : Reg) (s : State) : Host.Outcome State Fault Refusal :=
  (s.setRegFlag x (s.reg x <<< 1) (highBit (s.reg x))).advance

/-- `CXNN` with the drawn byte given: `V[x] <- r AND nn`, the draw used up (R132). -/
def randomInto (r : Byte) (x : Reg) (nn : Byte) (s : State) : Host.Outcome State Fault Refusal :=
  (s.useDraw.setReg x (r &&& nn)).advance

/-- `CXNN`: one fresh draw, a free value (R132, D19). Log entry 2. -/
def execCXNN (x : Reg) (nn : Byte) (s : State) : Host.Outcome State Fault Refusal :=
  randomInto (Config.rand8 s.draws) x nn s

end Sys2Proof.Machine
end

