-- ==== Sys2Proof/Machine/Operands.lean ====
section
/-! DEFINITION. The operand forms: immediates, the awaited and the selected key, the font address, the effective address, the BCD digits. -/

namespace Sys2Proof.Machine

/-- `zext_16(nnn)` (R83). -/
def zext12 (nnn : Addr12) : Word := nnn.zeroExtend 16

/-- `zext_16` of a byte (R104, R141). -/
def zext8 (b : Byte) : Word := b.zeroExtend 16

/-- `KEY[v mod 16]`: the key selected by the low four bits of a register (R115, D17). -/
def State.keyDown (s : State) (b : Byte) : Bool := s.keys[b.toNat % 16]'(Nat.mod_lt _ (by decide))

/-- The least `k` with `KEY[k] = 1`, if a key is down (R161, D18). -/
def leastKey (keys : KeyVector) : Option (Fin 16) := (List.finRange 16).find? fun k => keys[k.val]

/-- The byte that names a key, 0 to 15 (R161). -/
def keyByte (k : Fin 16) : Byte := BitVec.ofNat 8 k.val

/-- The address of the glyph of a register's low nibble, `5 × (v mod 16)` (R142). -/
def glyphAddress (b : Byte) : Word := BitVec.ofNat 16 (Config.glyphStride * (b.toNat % 16))

/-- The effective address `I`, as an unbounded integer (R60, R146). -/
def State.base (s : State) : Nat := s.i.toNat

/-- The decimal digits of a byte: hundreds, tens, ones (R143). -/
def bcdDigits (b : Byte) : List Byte :=
  [BitVec.ofNat 8 (b.toNat / 100), BitVec.ofNat 8 (b.toNat / 10 % 10), BitVec.ofNat 8 (b.toNat % 10)]

end Sys2Proof.Machine
end

