-- ==== Sys2Proof/Machine/ControlTransfer.lean ====
section
/-! DEFINITION. The control-transfer instructions (40_control_transfer.md). -/

namespace Sys2Proof.Machine

/-- `00EE`, return: `PC <- Pop()`, nothing added (R101). -/
def exec00EE (s : State) : Host.Outcome State Fault Refusal :=
  match s.pop with
  | .ok (target, t) => t.commit target false
  | .error f        => raise f

/-- `1NNN`, jump (R102). -/
def exec1NNN (nnn : Addr12) (s : State) : Host.Outcome State Fault Refusal :=
  s.commit (zext12 nnn) false

/-- `2NNN`, call: `Push(opc + 2)`, then `PC <- nnn` (R103, D4). -/
def exec2NNN (nnn : Addr12) (s : State) : Host.Outcome State Fault Refusal :=
  match s.push (s.pc + 2) with
  | .ok t    => t.commit (zext12 nnn) false
  | .error f => raise f

/-- `BNNN`, jump with offset: `PC <- V[0] + nnn`, modulo 65536 (R104). -/
def execBNNN (nnn : Addr12) (s : State) : Host.Outcome State Fault Refusal :=
  s.commit (zext8 (s.reg 0) + zext12 nnn) false

end Sys2Proof.Machine
end

