-- ==== Sys2Proof/Machine/Display.lean ====
section
/-! DEFINITION. The display instructions (44_display.md). -/

namespace Sys2Proof.Machine

/-- The cell of the pixel at row `row` and column `col`, both wrapped: `64 × (row mod 32) + (col mod 64)` (R152). -/
def cellIndex (row col : Nat) : Fin 2048 :=
  ⟨Config.fbWidth * (row % Config.fbHeight) + col % Config.fbWidth, by
    simp only [Config.fbWidth, Config.fbHeight]; omega⟩

/-- Inverts one cell, and notes the hit when the cell was lit (R151). -/
def drawPixel (f : Framebuffer × Bool) (i : Fin 2048) : Framebuffer × Bool :=
  (f.1.set i.val (!f.1[i.val]) i.isLt, f.2 || f.1[i.val])

/-- One sprite row of 8 pixels at row `row` from column `col`; bit 7 of the byte is the leftmost pixel (R151, D12). -/
def drawByte (f : Framebuffer × Bool) (col row : Nat) (b : Byte) : Framebuffer × Bool :=
  (List.range 8).foldl (fun g k => if b.getLsbD (7 - k) then drawPixel g (cellIndex row (col + k)) else g) f

/-- A sprite: one byte a row, rows going down from `row` (R151). -/
def drawSprite (f : Framebuffer × Bool) (col row : Nat) : List Byte → Framebuffer × Bool
  | [] => f
  | b :: bs => drawSprite (drawByte f col row b) col (row + 1) bs

/-- `00E0`: clear the framebuffer, `dirty = 1` (R150). -/
def exec00E0 (s : State) : Host.Outcome State Fault Refusal :=
  (s.setFb (Vector.replicate 2048 false)).commit (s.pc + 2) true

/-- `DXYN`: XOR the `n` sprite bytes at `I` onto the framebuffer at (`V[x]`, `V[y]`), then `VF <-` collision,
`dirty = 1`; or `OutOfBounds` with nothing drawn (R151). -/
def execDXYN (x y : Reg) (n : Nibble) (s : State) : Host.Outcome State Fault Refusal :=
  match s.loadBytes s.base n.toNat with
  | .ok sprite =>
    let drawn := drawSprite (s.fb, false) (s.reg x).toNat (s.reg y).toNat sprite
    ((s.setFb drawn.1).setFlag drawn.2).commit (s.pc + 2) true
  | .error f => raise f

end Sys2Proof.Machine
end

