-- ==== Sys2Proof/Machine/IndexMemory.lean ====
section
/-! DEFINITION. The index-register and memory instructions (43_index_memory.md). None but the three that write it changes `I` (R146). -/

namespace Sys2Proof.Machine

/-- `ANNN`: `I <- nnn` (R140). -/
def execANNN (nnn : Addr12) (s : State) : Host.Outcome State Fault Refusal :=
  (s.setI (zext12 nnn)).advance

/-- `FX1E`: `I <- (I + V[x]) mod 65536`, no flag (R141). -/
def execFX1E (x : Reg) (s : State) : Host.Outcome State Fault Refusal :=
  (s.setI (s.i + zext8 (s.reg x))).advance

/-- `FX29`: `I <- 5 × (V[x] mod 16)`; memory is not looked at (R142). -/
def execFX29 (x : Reg) (s : State) : Host.Outcome State Fault Refusal :=
  (s.setI (glyphAddress (s.reg x))).advance

/-- `FX33`: the decimal digits of `V[x]` to `MEM[I..I+2]`, or `OutOfBounds` with nothing written (R143). -/
def execFX33 (x : Reg) (s : State) : Host.Outcome State Fault Refusal :=
  match s.storeBytes s.base (bcdDigits (s.reg x)) with
  | .ok t    => t.advance
  | .error f => raise f

/-- `FX55`: `V[0]..V[x]` to `MEM[I..I+x]`, or `OutOfBounds` with nothing written (R144). -/
def execFX55 (x : Reg) (s : State) : Host.Outcome State Fault Refusal :=
  match s.storeBytes s.base (s.regsUpTo x) with
  | .ok t    => t.advance
  | .error f => raise f

/-- `FX65`: `MEM[I..I+x]` to `V[0]..V[x]`, or `OutOfBounds` with no register written (R145). -/
def execFX65 (x : Reg) (s : State) : Host.Outcome State Fault Refusal :=
  match s.loadBytes s.base (x.toNat + 1) with
  | .ok bs   => (s.setRegsFrom 0 bs).advance
  | .error f => raise f

end Sys2Proof.Machine
end

