-- ==== Sys2Proof/Machine/Skips.lean ====
section
/-! DEFINITION. The conditional-skip instructions (41_skips.md). -/

namespace Sys2Proof.Machine

/-- `3XNN`: skip if `V[x] = nn` (R111). -/
def exec3XNN (x : Reg) (nn : Byte) (s : State) : Host.Outcome State Fault Refusal :=
  s.skipIf (s.reg x == nn)

/-- `4XNN`: skip if `V[x] ≠ nn` (R112). -/
def exec4XNN (x : Reg) (nn : Byte) (s : State) : Host.Outcome State Fault Refusal :=
  s.skipIf (s.reg x != nn)

/-- `5XY0`: skip if `V[x] = V[y]` (R113). -/
def exec5XY0 (x y : Reg) (s : State) : Host.Outcome State Fault Refusal :=
  s.skipIf (s.reg x == s.reg y)

/-- `9XY0`: skip if `V[x] ≠ V[y]` (R114). -/
def exec9XY0 (x y : Reg) (s : State) : Host.Outcome State Fault Refusal :=
  s.skipIf (s.reg x != s.reg y)

/-- `EX9E`: skip if the key `V[x] mod 16` is down (R115). -/
def execEX9E (x : Reg) (s : State) : Host.Outcome State Fault Refusal :=
  s.skipIf (s.keyDown (s.reg x))

/-- `EXA1`: skip if the key `V[x] mod 16` is not down (R116). -/
def execEXA1 (x : Reg) (s : State) : Host.Outcome State Fault Refusal :=
  s.skipIf (!s.keyDown (s.reg x))

end Sys2Proof.Machine
end

