-- ==== Sys2Proof/Machine/TimersKeys.lean ====
section
/-! DEFINITION. The timer and key-wait instructions, the `Step` that awaits a key, and `Tick` (45_timers_keys.md). -/

namespace Sys2Proof.Machine

/-- `FX07`: `V[x] <- DT` (R160). -/
def execFX07 (x : Reg) (s : State) : Host.Outcome State Fault Refusal :=
  (s.setReg x s.dt).advance

/-- `FX15`: `DT <- V[x]` (R163). -/
def execFX15 (x : Reg) (s : State) : Host.Outcome State Fault Refusal :=
  (s.setDT (s.reg x)).advance

/-- `FX18`: `ST <- V[x]`; never a beep (R164). -/
def execFX18 (x : Reg) (s : State) : Host.Outcome State Fault Refusal :=
  (s.setST (s.reg x)).advance

/-- `FX0A`: with a key down, `V[x] <-` the least key down; with none, `AWAIT <- 1`, `AWAIT_X <- x` and `PC` unchanged
(R161). -/
def execFX0A (x : Reg) (s : State) : Host.Outcome State Fault Refusal :=
  match leastKey s.keys with
  | some k => (s.setReg x (keyByte k)).advance
  | none   => (s.setAwait true x).commit s.pc false

/-- `Step` while `AWAIT = 1`: nothing is fetched; with a key down the pending `FX0A` completes, with none no state
changes (R162). -/
def awaitKey (s : State) : Host.Outcome State Fault Refusal :=
  match leastKey s.keys with
  | some k => ((s.setReg s.awaitX (keyByte k)).setAwait false s.awaitX).advance
  | none   => s.commit s.pc false

/-- A timer one tick later: one less, never below 0 (R167). -/
def countDown (b : Byte) : Byte := if b = 0 then 0 else b - 1

/-- `Tick`: both timers count down; `beep = 1` exactly when `ST` was 1 (R167, R168). -/
def State.tick (s : State) : State :=
  ((s.setDT (countDown s.dt)).setST (countDown s.st)).setReply { beep := decide (s.st = 1) }

end Sys2Proof.Machine
end

