-- ==== Sys2Proof/Machine/Sequence.lean ====
section
/-! DEFINITION. The operations of the command port: the `Step` sequence (30_encoding.md R86), `Reset` (70_reset_and_hazards.md R200), `LoadProgram` (20_memory.md R58), the framebuffer read port (10_state.md R32), and what the driver sees of each (60_exceptions.md R170 to R176). -/

namespace Sys2Proof.Machine

/-- `Step` on the key snapshot in the state: S0 to S5 of R86. The fetch's error comes first, then `UnknownOpcode`,
then the instruction's own (R173). -/
def stepInstruction (s : State) : Host.Outcome State Fault Refusal :=
  if s.await then awaitKey s
  else
    match s.fetch with
    | .error f => raise f
    | .ok w =>
      match decode w with
      | .error _ => raise .unknownOpcode
      | .ok i    => exec i s

/-- `Reset` (R200): memory as the machine's font and zeros. It touches neither the key vector (an input) nor the random source (R31; log
entry 2), and the driver's schedule is the driver's own. -/
def State.doReset (s : State) : State :=
  { State.reset with font := s.font, keys := s.keys, draws := s.draws, schedule := s.schedule }

/-- `LoadProgram` (R58): the image to 0x200 onward and nothing else, or `ProgramTooLarge` with memory unchanged. -/
def State.loadProgram (s : State) (image : List Byte) : State :=
  if programWellFormed image then (s.putBytes Config.progBase image).setReply {}
  else s.setReply { err := .programTooLarge }

/-- The framebuffer read port: non-destructive (R9, R32). -/
def State.readCell (s : State) (i : Fin 2048) : State := s.setReply { cell := s.fb[i.val] }

/-- One command (R9). Before the first `Reset` every other command is refused (R201, D22). -/
def perform (c : Command) (s : State) : Host.Outcome State Fault Refusal :=
  match c with
  | .reset => .next s.doReset
  | .loadProgram image => if s.resetDone then .next (s.loadProgram image) else .refused .beforeReset
  | .step keys => if s.resetDone then stepInstruction (s.setKeys keys) else .refused .beforeReset
  | .tick => if s.resetDone then .next s.tick else .refused .beforeReset
  | .readCell i => if s.resetDone then .next (s.readCell i) else .refused .beforeReset

/-- The command the driver gives next: the oldest of its schedule, or, when there is none, `Step` with the keys as
they are (D29; log entry 4). -/
def State.nextCommand (s : State) : Command :=
  match s.schedule with
  | []     => .step s.keys
  | c :: _ => c

/-- The schedule without the command that is being given. -/
def State.takeCommand (s : State) : State := s.setSchedule s.schedule.tail

/-- The driver gives its next command and the machine performs it. -/
def runNext (s : State) : Host.Outcome State Fault Refusal := perform s.nextCommand s.takeCommand

/-! ## What the driver sees -/

/-- The error a fault reports (R170). -/
def Fault.err : Fault → Err
  | .outOfBounds    => .outOfBounds
  | .stackOverflow  => .stackOverflow
  | .stackUnderflow => .stackUnderflow
  | .unknownOpcode  => .unknownOpcode

/-- The spec's numbering of the errors (R170, D23). -/
def Err.code : Err → Nat
  | .none            => 0
  | .outOfBounds     => 1
  | .stackOverflow   => 2
  | .stackUnderflow  => 3
  | .unknownOpcode   => 4
  | .programTooLarge => 5

/-- Must the driver stop or reset the machine after this error (R176)? -/
def Err.fatal : Err → Bool
  | .outOfBounds    => true
  | .stackOverflow  => true
  | .stackUnderflow => true
  | .none            => false
  | .unknownOpcode   => false
  | .programTooLarge => false

/-- The machine after a command as the driver finds it: on an error everything is as before the command and the
reply carries the error's name and nothing else (R172, R174); the core keeps no fault latch, so the next command is
answered as always (R175, D24). A refused command leaves everything as it was. -/
def respond (c : Command) (s : State) : State :=
  match perform c s with
  | .next t    => t
  | .fault f   => s.setReply { err := f.err }
  | .refused _ => s

/-- A driver's sequence of commands, in its order (R8, R62). -/
def drive : List Command → State → State
  | [], s => s
  | c :: cs, s => drive cs (respond c s)

/-! ## Placing an instruction for the next step -/

/-- The schedule with a `Step` next, the keys as they are. -/
def stepNext (s : State) : List Command :=
  match s.schedule with
  | []          => []
  | .step _ :: _ => s.schedule
  | cs          => .step s.keys :: cs

/-- The state with a word's two bytes at `PC`, high byte first, and the machine about to fetch there: reset done, no
key awaited, a `Step` next. Bytes above address 4095 do not exist and are not placed. -/
def placeWord (s : State) (w : Word) : State :=
  { s with
    mem := if inBounds s.pc.toNat 2 then Memory.writeAll s.font s.mem s.pc.toNat (bytesOfWord w) else s.mem
    await := false
    schedule := stepNext s
    resetDone := true }

end Sys2Proof.Machine
end

