-- ==== Sys2Proof/Machine/Step.lean ====
section
/-! DEFINITION. One step of the machine, and placing an instruction for the next step. -/

namespace Sys2Proof.Machine

/-- One step: the driver gives its next command and the machine performs it (Machine/Sequence.lean). With an empty
schedule that command is `Step`. -/
def step (s : State) : Host.Outcome State Fault Refusal := runNext s

/-- The state with the instruction whose bits are `w` where the next step fetches. One instruction is one 16-bit word
(R80), so bit 0 of `w` is the word's least significant bit. -/
def State.withFetchWord (s : State) (nbits w : Nat) : State :=
  placeWord s (BitVec.ofNat 16 (w % 2 ^ nbits))

end Sys2Proof.Machine
end

