-- ==== Sys2Proof/Safety.lean ====
section
/-! DEFINITION. The terms claims use: the invariant of the machine, what a step leaves unchanged, the words of an instruction, and each instruction's own error and next-PC value as the spec tables them. -/

namespace Sys2Proof.Machine

/-! ## The invariant -/

/-- What every operation keeps (R30): memory in its canonical form (so no byte exists outside 0..4095), and a machine
that awaits a key stands at an address an instruction can be fetched from (R161: an `FX0A` was fetched there). The
other ranges of R30 are the types of the fields. -/
def State.Inv (s : State) : Prop :=
  Memory.wf s.font s.mem = true ∧ (s.await = true → s.pc.toNat ≤ 0xFFE)

/-- The second half of R30: while `AWAIT = 1`, the word at `PC` is the `FX0A` of register `AWAIT_X`. -/
def State.AwaitsItsFX0A (s : State) : Prop :=
  s.await = true → ∃ w, s.fetch = .ok w ∧ decode w = .ok (.opFX0A s.awaitX)

/-! ## Frames -/

/-- The parts of the state a claim may say are unchanged. -/
inductive Part where
  | regs | index | pc | sp | stk | memory | delay | sound | display | awaiting
  | font | keys | draws | reply | schedule | resetDone
  deriving DecidableEq, Repr

/-- Is this part the same in both states? Memory is compared byte by byte. -/
def Part.same (s t : State) : Part → Prop
  | .regs      => ∀ r, t.reg r = s.reg r
  | .index     => t.i = s.i
  | .pc        => t.pc = s.pc
  | .sp        => t.sp = s.sp
  | .stk       => ∀ k : Fin 16, t.stk[k] = s.stk[k]
  | .memory    => ∀ a, t.byteAt a = s.byteAt a
  | .delay     => t.dt = s.dt
  | .sound     => t.st = s.st
  | .display   => ∀ c : Fin 2048, t.fb[c] = s.fb[c]
  | .awaiting  => t.await = s.await ∧ t.awaitX = s.awaitX
  | .font      => t.font = s.font
  | .keys      => t.keys = s.keys
  | .draws     => t.draws = s.draws
  | .reply     => t.reply = s.reply
  | .schedule  => t.schedule = s.schedule
  | .resetDone => t.resetDone = s.resetDone

/-- Every part but the listed ones is the same in both states. -/
def ChangesOnly (parts : List Part) (s t : State) : Prop := ∀ p, p ∉ parts → Part.same s t p

/-- Every register but the listed ones is the same in both states. -/
def OtherRegsSame (changed : List Reg) (s t : State) : Prop := ∀ r, r ∉ changed → t.reg r = s.reg r

/-- `PC` is `k` bytes further, modulo 65536, and the result is `err = None`, `dirty = 0`, `beep = 0` (R86, R87). -/
def PcForward (k : Nat) (s t : State) : Prop :=
  t.pc.toNat = (s.pc.toNat + k) % 65536 ∧ t.reply = {}

/-- The machine with another instruction at hand: everything as in `t` but what the driver or a `Tick` may have changed
in between (timers, keys, outputs, schedule). -/
def SameProgramState (t u : State) : Prop :=
  ChangesOnly [.delay, .sound, .keys, .reply, .schedule] t u

/-! ## Words -/

/-- Every word of the pattern decodes to the instruction whose operands are its fields (R84). -/
def WordsDecodeTo (mask bits : Word) (mk : Fields → Instr) : Prop :=
  ∀ w : Word, w &&& mask = bits → decode w = .ok (mk (decodeFields w))

/-! ## The tables of the spec, by instruction -/

/-- The instruction's own error on this state (the execute rows of R171). -/
def ownError (i : Instr) (s : State) : Option Fault :=
  match i with
  | .opDXYN _ _ n => if n.toNat > 0 ∧ s.i.toNat + n.toNat - 1 > 4095 then some .outOfBounds else none
  | .opFX33 _     => if s.i.toNat + 2 > 4095 then some .outOfBounds else none
  | .opFX55 x     => if s.i.toNat + x.toNat > 4095 then some .outOfBounds else none
  | .opFX65 x     => if s.i.toNat + x.toNat > 4095 then some .outOfBounds else none
  | .op2NNN _     => if s.sp.val = 16 then some .stackOverflow else none
  | .op00EE       => if s.sp.val = 0 then some .stackUnderflow else none
  | _             => none

/-- Does the condition of a conditional skip hold (R111 to R116)? `none` for an instruction that is no skip. -/
def skipCondition (i : Instr) (s : State) : Option Bool :=
  match i with
  | .op3XNN x nn => some (decide (s.reg x = nn))
  | .op4XNN x nn => some (decide (s.reg x ≠ nn))
  | .op5XY0 x y  => some (decide (s.reg x = s.reg y))
  | .op9XY0 x y  => some (decide (s.reg x ≠ s.reg y))
  | .opEX9E x    => some (decide (s.keys[(s.reg x).toNat % 16]? = some true))
  | .opEXA1 x    => some (decide (s.keys[(s.reg x).toNat % 16]? = some false))
  | _            => none

/-- The next-PC value `np` of R87, before its reduction modulo 65536; `none` where there is no value (a return on an
empty stack, which is an error). -/
def nextPcValue (i : Instr) (s : State) : Option Nat :=
  match i with
  | .op1NNN nnn => some nnn.toNat
  | .op2NNN nnn => some nnn.toNat
  | .op00EE     => if s.sp.val = 0 then none else (s.stk[s.sp.val - 1]?).map BitVec.toNat
  | .opBNNN nnn => some ((s.reg 0).toNat + nnn.toNat)
  | .opFX0A _   => if ∃ k : Fin 16, s.keys[k] = true then some (s.pc.toNat + 2) else some s.pc.toNat
  | _ =>
    match skipCondition i s with
    | some true => some (s.pc.toNat + 4)
    | _         => some (s.pc.toNat + 2)

/-- The registers an instruction names as its destination, beside the flag it may set: `x`, or for `FX65` the block
`V[0]..V[x]`. -/
def destinations : Instr → List Reg
  | .op6XNN x _ => [x]
  | .op7XNN x _ => [x]
  | .op8XY0 x _ => [x]
  | .op8XY1 x _ => [x]
  | .op8XY2 x _ => [x]
  | .op8XY3 x _ => [x]
  | .op8XY4 x _ => [x]
  | .op8XY5 x _ => [x]
  | .op8XY6 x _ => [x]
  | .op8XY7 x _ => [x]
  | .op8XYE x _ => [x]
  | .opCXNN x _ => [x]
  | .opFX07 x   => [x]
  | .opFX0A x   => [x]
  | .opFX65 x   => (List.range (x.toNat + 1)).map (BitVec.ofNat 4)
  | _           => []

/-- The six instructions that write `VF` as a side effect (R21). -/
def writesFlag : Instr → Bool
  | .op8XY4 _ _   => true
  | .op8XY5 _ _   => true
  | .op8XY6 _ _   => true
  | .op8XY7 _ _   => true
  | .op8XYE _ _   => true
  | .opDXYN _ _ _ => true
  | _             => false

/-- How many bytes an instruction stores, from address `I` on (R143, R144). -/
def storedLength : Instr → Nat
  | .opFX33 _ => 3
  | .opFX55 x => x.toNat + 1
  | _         => 0

/-- The byte `FX33` leaves at an address, where it stores one (R143). -/
def bcdByteAt (x : Reg) (s : State) (a : Nat) : Option Byte :=
  if a = s.base then some (BitVec.ofNat 8 ((s.reg x).toNat / 100))
  else if a = s.base + 1 then some (BitVec.ofNat 8 ((s.reg x).toNat / 10 % 10))
  else if a = s.base + 2 then some (BitVec.ofNat 8 ((s.reg x).toNat % 10))
  else none

/-- The byte `FX55` leaves at an address, where it stores one (R144). -/
def blockByteAt (x : Reg) (s : State) (a : Nat) : Option Byte :=
  if s.base ≤ a ∧ a ≤ s.base + x.toNat then some (s.reg (BitVec.ofNat 4 (a - s.base))) else none

/-- After the step from `s` to `t` the fetch reads the stored bytes where `stored` has one, and the old bytes where it has
none (R65). -/
def FetchSees (stored : Nat → Option Byte) (s t : State) : Prop :=
  t.fetch = .ok ((stored t.pc.toNat).getD (s.byteAt t.pc.toNat) ++
    (stored (t.pc.toNat + 1)).getD (s.byteAt (t.pc.toNat + 1)))

/-- The parts an instruction may change, by its rule; every instruction moves `PC` and reports a result. -/
def mayChange (i : Instr) : List Part :=
  [.pc, .reply] ++
  match i with
  | .op00E0       => [.display]
  | .op00EE       => [.sp]
  | .op2NNN _     => [.sp, .stk]
  | .opANNN _     => [.index]
  | .opFX1E _     => [.index]
  | .opFX29 _     => [.index]
  | .opCXNN _ _   => [.regs, .draws]
  | .opDXYN _ _ _ => [.regs, .display]
  | .opFX0A _     => [.regs, .awaiting]
  | .opFX15 _     => [.delay]
  | .opFX18 _     => [.sound]
  | .opFX33 _     => [.memory]
  | .opFX55 _     => [.memory]
  | .opFX07 _     => [.regs]
  | .opFX65 _     => [.regs]
  | .op6XNN _ _   => [.regs]
  | .op7XNN _ _   => [.regs]
  | .op8XY0 _ _   => [.regs]
  | .op8XY1 _ _   => [.regs]
  | .op8XY2 _ _   => [.regs]
  | .op8XY3 _ _   => [.regs]
  | .op8XY4 _ _   => [.regs]
  | .op8XY5 _ _   => [.regs]
  | .op8XY6 _ _   => [.regs]
  | .op8XY7 _ _   => [.regs]
  | .op8XYE _ _   => [.regs]
  | .op1NNN _     => []
  | .opBNNN _     => []
  | .op3XNN _ _   => []
  | .op4XNN _ _   => []
  | .op5XY0 _ _   => []
  | .op9XY0 _ _   => []
  | .opEX9E _     => []
  | .opEXA1 _     => []

/-! ## Sprites -/

/-- Does a sprite of `n` bytes at `I`, its left edge at column `col` and its top edge at row `row`, have a 1 bit on this
cell? Row `r`, pixel `k` (`k = 0` leftmost, bit 7) lies on cell `64 × ((row + r) mod 32) + ((col + k) mod 64)`
(R151, R152). -/
def spriteLights (s : State) (col row n : Nat) (cell : Nat) : Prop :=
  ∃ r k : Nat, r < n ∧ k < 8 ∧ (s.byteAt (s.base + r)).getLsbD (7 - k) = true ∧
    cell = 64 * ((row + r) % 32) + (col + k) % 64

end Sys2Proof.Machine
end

