-- ==== Sys2Proof/Certificates/Slice0/Obligations.lean ====
section
/-! DEFINITION. The statements for the provers. `R<n>` is a numbered rule of spec/; where a clause rests on a decision the spec marks as its own (D<n>) or on this model's choice, the docstring says so and names the log entry. -/

open Sys2Proof Sys2Proof.Machine

/-! ## Decoding and encoding -/

/-- R81, R82, R84: decoding the word of any instruction gives the instruction back, every operand at every value. -/
def Obligations.DecodeOfEncodeIsTheInstruction : Prop :=
  ∀ i : Instr, decode (encode i) = .ok i

/-- R84, R91, with the exact masks of the spec's D3 (log entry 26): a word that decodes is the word of the instruction it
decodes to, so no bit of it is dropped. Were the masks not exact, two words could decode to one instruction. -/
def Obligations.EncodeOfDecodeIsTheWord : Prop :=
  ∀ (w : Word) (i : Instr), decode w = .ok i → encode i = w

/-- R84, R85: the rows of the opcode map are disjoint; a word decodes exactly when a row selects it, and then to an
instruction of that row; a word that no row selects is `UnknownOpcode`. The exactness of the masks is the spec's D3. -/
def Obligations.EveryWordSelectsOneRowOrIsUnknown : Prop :=
  ∀ w : Word,
    (∀ r ∈ opcodeMap, ∀ q ∈ opcodeMap, r.selects w = true → q.selects w = true → r = q) ∧
    (∀ r ∈ opcodeMap, r.selects w = true → ∃ i, decode w = .ok i ∧ patternOf i = r.pattern) ∧
    ((∀ r ∈ opcodeMap, r.selects w = false) → decode w = .error .unknownOpcode)

/-- R80, R84: sixteen words written out from the opcode map, one for each family nibble, decode to their instructions, and
three words that differ from a row in one fixed nibble or bit are unknown. That 0x01E0, 0x5121 and 0xE19F are unknown
rests on the exact masks of the spec's D3 (log entry 26). -/
def Obligations.WrittenWordsDecode : Prop :=
  decode 0x00EE = .ok .op00EE ∧ decode 0x1ABC = .ok (.op1NNN 0xABC) ∧ decode 0x2ABC = .ok (.op2NNN 0xABC) ∧
  decode 0x3A05 = .ok (.op3XNN 0xA 0x05) ∧ decode 0x4BC7 = .ok (.op4XNN 0xB 0xC7) ∧ decode 0x5120 = .ok (.op5XY0 0x1 0x2) ∧
  decode 0x6A05 = .ok (.op6XNN 0xA 0x05) ∧ decode 0x7A02 = .ok (.op7XNN 0xA 0x02) ∧ decode 0x81FE = .ok (.op8XYE 0x1 0xF) ∧
  decode 0x9120 = .ok (.op9XY0 0x1 0x2) ∧ decode 0xA300 = .ok (.opANNN 0x300) ∧ decode 0xB123 = .ok (.opBNNN 0x123) ∧
  decode 0xC10F = .ok (.opCXNN 0x1 0x0F) ∧ decode 0xD12F = .ok (.opDXYN 0x1 0x2 0xF) ∧ decode 0xE2A1 = .ok (.opEXA1 0x2) ∧
  decode 0xF265 = .ok (.opFX65 0x2) ∧
  decode 0x01E0 = .error .unknownOpcode ∧ decode 0x5121 = .error .unknownOpcode ∧ decode 0xE19F = .error .unknownOpcode

/-- R81: each field is the slice of the word the rule's table names, by its arithmetic value; `nn = y ‖ n` and
`nnn = x ‖ y ‖ n`. -/
def Obligations.FieldsAreTheSlicesOfTheWord : Prop :=
  ∀ w : Word,
    (decodeFields w).fam.toNat = w.toNat / 4096 ∧
    (decodeFields w).x.toNat = w.toNat / 256 % 16 ∧
    (decodeFields w).y.toNat = w.toNat / 16 % 16 ∧
    (decodeFields w).n.toNat = w.toNat % 16 ∧
    (decodeFields w).nn.toNat = w.toNat % 256 ∧
    (decodeFields w).nnn.toNat = w.toNat % 4096 ∧
    (decodeFields w).nn = (decodeFields w).y ++ (decodeFields w).n ∧
    (decodeFields w).nnn = (decodeFields w).x ++ (decodeFields w).y ++ (decodeFields w).n

/-! ## The step -/

/-- R86: when the bytes at `PC` decode to `i`, a step whose command is `Step` is `exec` of `i`, on the state with the
command taken from the schedule and its key snapshot sampled (with an empty schedule: on the state itself). -/
def Obligations.StepRunsTheDecodedInstruction : Prop :=
  ∀ (s : State) (i : Instr), s.resetDone = true → s.await = false → s.pc.toNat ≤ 0xFFE →
    decode (wordOfBytes (s.byteAt s.pc.toNat) (s.byteAt (s.pc.toNat + 1))) = .ok i →
    (∀ keys cs, s.schedule = .step keys :: cs → step s = exec i ((s.setSchedule cs).setKeys keys)) ∧
    (s.schedule = [] → step s = exec i s)

/-- R55: the fetch joins the bytes at `pc` and `pc + 1`, the first the high one; it succeeds exactly for
`pc <= 0xFFE`. -/
def Obligations.FetchIsBigEndianAndBounded : Prop :=
  ∀ s : State,
    (s.pc.toNat ≤ 0xFFE → ∃ w, s.fetch = .ok w ∧
      w.toNat = 256 * (s.byteAt s.pc.toNat).toNat + (s.byteAt (s.pc.toNat + 1)).toNat) ∧
    (s.pc.toNat > 0xFFE → s.fetch = .error .outOfBounds)

/-- R8, R9: a step performs the oldest command of the driver's schedule. That the schedule is part of the state, and
that an empty one means `Step` with the keys as they are, is this model's choice (log entry 4). -/
def Obligations.StepTakesTheNextCommand : Prop :=
  (∀ (s : State) (c : Command) (cs : List Command), s.schedule = c :: cs → step s = perform c (s.setSchedule cs)) ∧
  (∀ s : State, s.schedule = [] → step s = perform (.step s.keys) s)

/-- R171 (with the order of R173): the errors of every operation, exhaustively. A `Step` faults exactly when no key is
awaited and the fetch is out of bounds, or no row selects the word, or the instruction's own condition holds;
`LoadProgram` reports `ProgramTooLarge` exactly above 0xE00 bytes; `Tick`, `Reset` and the framebuffer read never fail. -/
def Obligations.ErrorsAreExactlyThoseOfTheTable : Prop :=
  (∀ (s : State) (keys : KeyVector) (f : Fault), s.resetDone = true →
    (perform (.step keys) s = .fault f ↔ s.await = false ∧
      ((s.pc.toNat > 0xFFE ∧ f = .outOfBounds) ∨
       ∃ w, s.fetch = .ok w ∧
        (((∀ r ∈ opcodeMap, r.selects w = false) ∧ f = .unknownOpcode) ∨
         ∃ i, decode w = .ok i ∧ ownError i s = some f)))) ∧
  (∀ (s : State) (image : List Byte), s.resetDone = true →
    ∃ t, perform (.loadProgram image) s = .next t ∧
      t.reply.err = if image.length > 0xE00 then .programTooLarge else .none) ∧
  (∀ s : State, s.resetDone = true → ∃ t, perform .tick s = .next t ∧ t.reply.err = .none) ∧
  (∀ (s : State) (c : Fin 2048), s.resetDone = true → ∃ t, perform (.readCell c) s = .next t ∧ t.reply.err = .none) ∧
  (∀ s : State, ∃ t, perform .reset s = .next t ∧ t.reply.err = .none)

/-- R174: an error transfers control nowhere. Every piece of state is as it was before the operation and the result is
the error, `dirty = 0`, `beep = 0`; a `LoadProgram` that fails leaves memory, and all else, as before the call. -/
def Obligations.AnErrorLeavesTheMachineAsItWas : Prop :=
  (∀ (c : Command) (s : State) (f : Fault), perform c s = .fault f →
    ChangesOnly [.reply] s (respond c s) ∧ (respond c s).reply.err = f.err ∧
      (respond c s).reply.dirty = false ∧ (respond c s).reply.beep = false) ∧
  (∀ (s : State) (image : List Byte), s.resetDone = true → image.length > 0xE00 →
    ChangesOnly [.reply] s (respond (.loadProgram image) s) ∧
      (respond (.loadProgram image) s).reply = { err := .programTooLarge })

/-- R175: a `Step` asked for again after an error reports the same error, whatever keys are down; there is no latch. -/
def Obligations.ARepeatedStepRepeatsTheError : Prop :=
  ∀ (s : State) (keys keys' : KeyVector) (f : Fault), perform (.step keys) s = .fault f →
    perform (.step keys') (respond (.step keys) s) = .fault f

/-- R201: before the first `Reset` every operation but `Reset` is refused. The refusal is the spec's D22; the flag that
holds it is this model's (log entry 7). -/
def Obligations.BeforeTheFirstResetNothingRuns : Prop :=
  (∀ (c : Command) (s : State), s.resetDone = false → c ≠ .reset → perform c s = .refused .beforeReset) ∧
  (∀ s : State, ∃ t, perform .reset s = .next t ∧ t.resetDone = true)

/-- R162: a `Step` while a key is awaited fetches nothing. With a key down the pending instruction completes with the
least key down; with none no state changes. Least-first is the spec's D18 (log entry 14). -/
def Obligations.AwaitingStepChecksTheKeys : Prop :=
  ∀ (s : State) (keys : KeyVector), s.resetDone = true → s.await = true →
    (∀ k : Fin 16, keys[k] = true → (∀ j : Fin 16, j < k → keys[j] = false) →
      ∃ t, perform (.step keys) s = .next t ∧ (t.reg s.awaitX).toNat = k.val ∧ OtherRegsSame [s.awaitX] s t ∧
        t.await = false ∧ PcForward 2 s t ∧ ChangesOnly [.regs, .awaiting, .pc, .keys, .reply] s t) ∧
    ((∀ k : Fin 16, keys[k] = false) →
      ∃ t, perform (.step keys) s = .next t ∧ t.reply = {} ∧ ChangesOnly [.keys, .reply] s t)

/-- R162, the derived sentence: if the word at `PC` is still the `FX0A` that is awaited, the awaiting `Step` does what
fetching and executing it again would do. -/
def Obligations.AwaitingEqualsReexecution : Prop :=
  ∀ (s : State) (keys : KeyVector), s.resetDone = true → s.await = true → s.AwaitsItsFX0A →
    perform (.step keys) s = perform (.step keys) (s.setAwait false s.awaitX)

/-- R87, with the conditions of R111 to R116: the PC-advancement policy, for every instruction: `PC` becomes the tabled
value modulo 65536. The modulus is the spec's D34 and the return address its D4 (log entry 18); the key that `EX9E` and
`EXA1` test, `V[x] mod 16`, is its D17 (log entry 13); the test of the keys by `FX0A` itself is its D18 (log entry 14). -/
def Obligations.PcFollowsTheAdvancementPolicy : Prop :=
  ∀ (i : Instr) (s t : State), exec i s = .next t →
    ∃ np, nextPcValue i s = some np ∧ t.pc.toNat = np % 65536

/-- R22, R24, R29, R32, R33, R57, R61, R100, R110, R146: whatever an instruction's rule does not say it writes is
unchanged: every part of the state its rule does not name (in particular the key vector, the schedule, the font and the
reset flag), every register but its destinations and, for the six flag instructions, `VF`; every byte but those stored
from `I` on; every stack entry but the one a call pushes; every cell but those a sprite lights. That `I` is unchanged by
`FX33`, `FX55`, `FX65` and `DXYN` is the spec's D11 (log entry 17), that a popped entry stays its D5 (log entry 9), that
`VF` is left alone by the other instructions its D8 (log entry 12); the place of a sprite's cells is D12, D13 and D14 (log
entries 15 and 16). -/
def Obligations.InstructionsChangeOnlyWhatTheirRulesSay : Prop :=
  ∀ (i : Instr) (s t : State), exec i s = .next t →
    ChangesOnly (mayChange i) s t ∧
    (∀ r, r ∉ destinations i → (writesFlag i = true → r ≠ vf) → t.reg r = s.reg r) ∧
    (∀ a, a < s.base ∨ s.base + storedLength i ≤ a → t.byteAt a = s.byteAt a) ∧
    (∀ k : Fin 16, (∀ nnn, i = .op2NNN nnn → k.val ≠ s.sp.val) → t.stk[k] = s.stk[k]) ∧
    (∀ c : Fin 2048, i ≠ .op00E0 →
      (∀ x y n, i = .opDXYN x y n → ¬ spriteLights s (s.reg x).toNat (s.reg y).toNat n.toNat c.val) →
      t.fb[c] = s.fb[c])

/-- R21: the six instructions that set the flag leave `VF` exactly 0 or 1; every other instruction leaves `VF` alone
unless `VF` is among its destinations (the spec's D7 and D8, log entries 10 and 12). -/
def Obligations.FlagIsWrittenByItsSixInstructionsOnly : Prop :=
  ∀ (i : Instr) (s t : State), exec i s = .next t →
    (writesFlag i = true → (t.reg vf).toNat ≤ 1) ∧
    (writesFlag i = false → vf ∉ destinations i → t.reg vf = s.reg vf)

/-! ## Invariants -/

/-- R30, R50, R57: every step keeps the invariant: memory in its canonical form, and a machine that awaits a key stands
where an instruction can be fetched. -/
def Obligations.StepKeepsTheInvariant : Prop :=
  ∀ s t : State, s.Inv → step s = .next t → t.Inv

/-- R30, R38: the machine after reset meets both invariants. -/
def Obligations.ResetMeetsTheInvariants : Prop :=
  State.reset.Inv ∧ State.reset.AwaitsItsFX0A

/-- R30, R161, R162: while a key is awaited the word at `PC` is the awaited `FX0A`, its register in `AWAIT_X`; every
step keeps this but a `LoadProgram`, which may replace the word. -/
def Obligations.StepKeepsThePendingKeyWait : Prop :=
  ∀ s t : State, s.AwaitsItsFX0A → (∀ image, s.nextCommand ≠ .loadProgram image) → step s = .next t → t.AwaitsItsFX0A

/-! ## Reset, LoadProgram, Tick, the read port -/

/-- R200: `Reset` is answered in every state and leaves every piece of state at its value: the machine's font first in
memory, whichever font it is (the parameter of D20, log entry 1), and 0 above it. The values of `I`, `STK` and `AWAIT` are
the spec's D21 (log entry 8). The key vector is an input it does not touch (R31, log entry 3); that the count of draws and
the schedule stay as they are is this model's choice (log entries 2 and 4), the spec saying nothing of the random source
at a reset. -/
def Obligations.ResetInitialisesEverything : Prop :=
  ∀ s : State, ∃ t, perform .reset s = .next t ∧
    (∀ k : Fin 80, t.byteAt k.val = s.font[k]) ∧ (∀ a, 80 ≤ a → t.byteAt a = 0) ∧
    (∀ r, t.reg r = 0) ∧ t.i = 0 ∧ t.pc = 0x200 ∧ t.sp = 0 ∧ (∀ k : Fin 16, t.stk[k] = 0) ∧
    t.dt = 0 ∧ t.st = 0 ∧ (∀ c : Fin 2048, t.fb[c] = false) ∧ t.await = false ∧
    t.font = s.font ∧ t.keys = s.keys ∧ t.draws = s.draws ∧ t.schedule = s.schedule

/-- R38: what the state after reset holds, for the values the source states: registers, `PC`, `SP`, timers, framebuffer,
and memory above the font. -/
def Obligations.ResetStateHoldsTheStatedValues : Prop :=
  (∀ r, State.reset.reg r = 0) ∧ State.reset.pc = 0x200 ∧ State.reset.sp = 0 ∧ State.reset.dt = 0 ∧ State.reset.st = 0 ∧
  (∀ c : Fin 2048, State.reset.fb[c] = false) ∧ (∀ a, 80 ≤ a → State.reset.byteAt a = 0)

/-- R4, R52: `FONTSET` is a parameter of the machine (D20, log entry 1): no step changes it. -/
def Obligations.TheFontParameterNeverChanges : Prop :=
  ∀ s t : State, step s = .next t → t.font = s.font

/-- R58: `LoadProgram` copies the image to 0x200 onward and changes nothing else, or, above 0xE00 bytes, reports
`ProgramTooLarge` and changes nothing. That all else is untouched is the spec's D26 (log entry 19). -/
def Obligations.LoadProgramCopiesTheImage : Prop :=
  ∀ (s : State) (image : List Byte), s.resetDone = true →
    (image.length ≤ 0xE00 → ∃ t, perform (.loadProgram image) s = .next t ∧ t.reply = {} ∧
      (∀ k (h : k < image.length), t.byteAt (0x200 + k) = image[k]) ∧
      (∀ a, a < 0x200 ∨ 0x200 + image.length ≤ a → t.byteAt a = s.byteAt a) ∧
      ChangesOnly [.memory, .reply] s t) ∧
    (image.length > 0xE00 → ∃ t, perform (.loadProgram image) s = .next t ∧
      t.reply = { err := .programTooLarge } ∧ ChangesOnly [.reply] s t)

/-- R153: `dirty = 1` exactly when the `Step` completed a `00E0` or a `DXYN`, 0 in every other case, errors and
awaiting `Step`s among them. The reading is the spec's D15 (log entry 22). -/
def Obligations.DirtyMeansADrawCompleted : Prop :=
  (∀ (s t : State) (keys : KeyVector), perform (.step keys) s = .next t →
    (t.reply.dirty = true ↔ s.await = false ∧ ∃ w i, s.fetch = .ok w ∧ decode w = .ok i ∧
      (i = .op00E0 ∨ ∃ x y n, i = .opDXYN x y n))) ∧
  (∀ (s : State) (keys : KeyVector) (f : Fault), perform (.step keys) s = .fault f →
    (respond (.step keys) s).reply.dirty = false)

/-- R167: `Tick` takes at most 1 from each timer, never below zero, reports a beep exactly when it finds `ST = 1`, and
changes nothing else; no `Step` counts a timer down: one that completes leaves both timers as they were unless it runs
the `FX15` or the `FX18` that loads them. -/
def Obligations.TickCountsBothTimersDown : Prop :=
  (∀ s : State, s.resetDone = true → ∃ t, perform .tick s = .next t ∧
    t.dt.toNat = s.dt.toNat - 1 ∧ t.st.toNat = s.st.toNat - 1 ∧
    t.reply = { beep := decide (s.st.toNat = 1) } ∧ ChangesOnly [.delay, .sound, .reply] s t) ∧
  (∀ (s t : State) (keys : KeyVector), perform (.step keys) s = .next t →
    (t.dt = s.dt ∨ (s.await = false ∧ ∃ w x, s.fetch = .ok w ∧ decode w = .ok (.opFX15 x))) ∧
    (t.st = s.st ∨ (s.await = false ∧ ∃ w x, s.fetch = .ok w ∧ decode w = .ok (.opFX18 x))))

/-- R168: a sound timer at `v` beeps on the `v`-th `Tick` and on no other; no `Step` beeps (the spec's D16, log entry
22). -/
def Obligations.BeepComesOnTheLastTick : Prop :=
  (∀ (s : State) (n : Nat), s.resetDone = true → 1 ≤ n →
    ((drive (List.replicate n .tick) s).reply.beep = true ↔ s.st.toNat = n)) ∧
  (∀ (s t : State) (keys : KeyVector), perform (.step keys) s = .next t → t.reply.beep = false)

/-- R9, R32: the framebuffer read port returns the cell's bit and changes nothing. -/
def Obligations.FramebufferReadIsNonDestructive : Prop :=
  ∀ (s : State) (c : Fin 2048), s.resetDone = true →
    ∃ t, perform (.readCell c) s = .next t ∧ t.reply.cell = s.fb[c] ∧ ChangesOnly [.reply] s t

/-! ## Whole-machine rules -/

/-- R208: at a jump to self, with no key awaited and no other command pending, a step leaves all state unchanged and
reports no error. The definition of the end of a run is the spec's D35. -/
def Obligations.JumpToSelfIsAFixedPoint : Prop :=
  ∀ s : State, s.resetDone = true → s.schedule = [] → s.await = false → s.fetch = .ok (0x1000#16 + s.pc) →
    ∃ t, step s = .next t ∧ t.reply = {} ∧ ChangesOnly [.reply] s t

/-- R65: a store of `FX33` or `FX55` is seen by the very next fetch with nothing in between: the fetch reads each of its
two bytes as stored where the store reached it, and as it was where not. The immediate visibility is the spec's D28 (log
entry 20). In particular (the last clause) `FX55` with `I` at the next instruction and at least two registers replaces
that instruction's word by `V[0] ‖ V[1]`. -/
def Obligations.AStoredWordIsTheNextWordFetched : Prop :=
  (∀ (s : State) (x : Reg), (s.pc + 2).toNat ≤ 0xFFE → s.base + 2 ≤ 4095 →
    ∃ t, exec (.opFX33 x) s = .next t ∧ t.pc = s.pc + 2 ∧ FetchSees (bcdByteAt x s) s t) ∧
  (∀ (s : State) (x : Reg), (s.pc + 2).toNat ≤ 0xFFE → s.base + x.toNat ≤ 4095 →
    ∃ t, exec (.opFX55 x) s = .next t ∧ t.pc = s.pc + 2 ∧ FetchSees (blockByteAt x s) s t) ∧
  (∀ (s : State) (x : Reg), 1 ≤ x.toNat → s.i = s.pc + 2 → s.i.toNat + x.toNat ≤ 4095 →
    ∃ t, exec (.opFX55 x) s = .next t ∧ t.fetch = .ok (s.reg 0 ++ s.reg 1))

/-- R29: no instruction reads the sound timer: two states that differ in it alone run alike, and afterwards differ in it
alone, or not at all once it is written. -/
def Obligations.NoInstructionReadsTheSoundTimer : Prop :=
  ∀ (i : Instr) (s : State) (b : Byte),
    (∀ t, exec i s = .next t → ∃ u, exec i (s.setST b) = .next u ∧ ChangesOnly [.sound] t u ∧
      (u.st = t.st ∨ (t.st = s.st ∧ u.st = b))) ∧
    (∀ f, exec i s = .fault f → exec i (s.setST b) = .fault f)

/-- R24: entries at or above `SP` are dead: two states whose live entries agree run alike, and their live entries agree
afterwards. -/
def Obligations.DeadStackEntriesAreUnobservable : Prop :=
  ∀ (i : Instr) (s : State) (stk' : Vector Word 16), (∀ k : Fin 16, k.val < s.sp.val → stk'[k] = s.stk[k]) →
    (∀ t, exec i s = .next t → ∃ u, exec i (s.setStack s.sp stk') = .next u ∧ ChangesOnly [.stk] t u ∧
      ∀ k : Fin 16, k.val < t.sp.val → u.stk[k] = t.stk[k]) ∧
    (∀ f, exec i s = .fault f → exec i (s.setStack s.sp stk') = .fault f)

/-! ## Control transfer -/

/-- R101: `00EE` pops the return address into `PC` and adds nothing, or fails on an empty stack. The popped entry stays
(the spec's D5, log entry 9). -/
def Obligations.ReturnPopsTheStack : Prop :=
  WordsDecodeTo 0xFFFF 0x00EE (fun _ => .op00EE) ∧
  ∀ s : State,
    (s.sp.val = 0 → exec .op00EE s = .fault .stackUnderflow) ∧
    (s.sp.val ≠ 0 → ∃ t, exec .op00EE s = .next t ∧ t.sp.val = s.sp.val - 1 ∧
      s.stk[s.sp.val - 1]? = some t.pc ∧ t.reply = {} ∧ ChangesOnly [.sp, .pc, .reply] s t)

/-- R102: `1NNN` sets `PC` to `nnn`. -/
def Obligations.JumpSetsPc : Prop :=
  WordsDecodeTo 0xF000 0x1000 (fun f => .op1NNN f.nnn) ∧
  ∀ (nnn : Addr12) (s : State), ∃ t, exec (.op1NNN nnn) s = .next t ∧
    t.pc.toNat = nnn.toNat ∧ t.reply = {} ∧ ChangesOnly [.pc, .reply] s t

/-- R103: `2NNN` pushes the address after the call and jumps, or fails on a full stack. What is pushed, and the order of
store and increment, are the spec's D4 and D5 (log entries 9 and 18). -/
def Obligations.CallPushesTheReturnAddress : Prop :=
  WordsDecodeTo 0xF000 0x2000 (fun f => .op2NNN f.nnn) ∧
  ∀ (nnn : Addr12) (s : State),
    (s.sp.val = 16 → exec (.op2NNN nnn) s = .fault .stackOverflow) ∧
    (s.sp.val ≠ 16 → ∃ t, exec (.op2NNN nnn) s = .next t ∧ t.pc.toNat = nnn.toNat ∧ t.sp.val = s.sp.val + 1 ∧
      (t.stk[s.sp.val]?).map BitVec.toNat = some ((s.pc.toNat + 2) % 65536) ∧
      (∀ k : Fin 16, k.val ≠ s.sp.val → t.stk[k] = s.stk[k]) ∧
      t.reply = {} ∧ ChangesOnly [.sp, .stk, .pc, .reply] s t)

/-- R104: `BNNN` sets `PC` to `V[0] + nnn`, which is at most 0x10FE, so that nothing is reduced. -/
def Obligations.JumpWithOffsetAddsV0 : Prop :=
  WordsDecodeTo 0xF000 0xB000 (fun f => .opBNNN f.nnn) ∧
  ∀ (nnn : Addr12) (s : State), ∃ t, exec (.opBNNN nnn) s = .next t ∧
    t.pc.toNat = (s.reg 0).toNat + nnn.toNat ∧ t.reply = {} ∧ ChangesOnly [.pc, .reply] s t

/-- R105: if a call succeeds and the next instruction executed is a return, `PC` is the address after the call and `SP`
is what it was, whatever `Tick`s and keys come in between. -/
def Obligations.CallThenReturnRestoresPc : Prop :=
  ∀ (nnn : Addr12) (s t t' : State), exec (.op2NNN nnn) s = .next t → SameProgramState t t' →
    ∃ u, exec .op00EE t' = .next u ∧ u.pc.toNat = (s.pc.toNat + 2) % 65536 ∧ u.sp = s.sp

/-! ## Skips -/

/-- R111, R112: `3XNN` skips if `V[x] = nn`, `4XNN` if not. -/
def Obligations.SkipsComparingWithImmediate : Prop :=
  WordsDecodeTo 0xF000 0x3000 (fun f => .op3XNN f.x f.nn) ∧
  WordsDecodeTo 0xF000 0x4000 (fun f => .op4XNN f.x f.nn) ∧
  ∀ (x : Reg) (nn : Byte) (s : State),
    (∃ t, exec (.op3XNN x nn) s = .next t ∧ PcForward (if s.reg x = nn then 4 else 2) s t ∧
      ChangesOnly [.pc, .reply] s t) ∧
    (∃ t, exec (.op4XNN x nn) s = .next t ∧ PcForward (if s.reg x ≠ nn then 4 else 2) s t ∧
      ChangesOnly [.pc, .reply] s t)

/-- R113, R114: `5XY0` skips if `V[x] = V[y]`, `9XY0` if not. -/
def Obligations.SkipsComparingRegisters : Prop :=
  WordsDecodeTo 0xF00F 0x5000 (fun f => .op5XY0 f.x f.y) ∧
  WordsDecodeTo 0xF00F 0x9000 (fun f => .op9XY0 f.x f.y) ∧
  ∀ (x y : Reg) (s : State),
    (∃ t, exec (.op5XY0 x y) s = .next t ∧ PcForward (if s.reg x = s.reg y then 4 else 2) s t ∧
      ChangesOnly [.pc, .reply] s t) ∧
    (∃ t, exec (.op9XY0 x y) s = .next t ∧ PcForward (if s.reg x ≠ s.reg y then 4 else 2) s t ∧
      ChangesOnly [.pc, .reply] s t)

/-- R115, R116: `EX9E` skips if the key `V[x] mod 16` is down in the snapshot, `EXA1` if it is not. The selection by the
low four bits is the spec's D17 (log entry 13). -/
def Obligations.SkipsTestingAKey : Prop :=
  WordsDecodeTo 0xF0FF 0xE09E (fun f => .opEX9E f.x) ∧
  WordsDecodeTo 0xF0FF 0xE0A1 (fun f => .opEXA1 f.x) ∧
  ∀ (x : Reg) (s : State) (k : Fin 16), k.val = (s.reg x).toNat % 16 →
    (∃ t, exec (.opEX9E x) s = .next t ∧ PcForward (if s.keys[k] = true then 4 else 2) s t ∧
      ChangesOnly [.pc, .reply] s t) ∧
    (∃ t, exec (.opEXA1 x) s = .next t ∧ PcForward (if s.keys[k] = false then 4 else 2) s t ∧
      ChangesOnly [.pc, .reply] s t)

/-! ## Load, arithmetic, logic, shift, random -/

/-- R121, R123: `6XNN` writes `nn` to `V[x]`, `8XY0` writes `V[y]`; no flag. -/
def Obligations.LoadsWriteTheirOperand : Prop :=
  WordsDecodeTo 0xF000 0x6000 (fun f => .op6XNN f.x f.nn) ∧
  WordsDecodeTo 0xF00F 0x8000 (fun f => .op8XY0 f.x f.y) ∧
  (∀ (x : Reg) (nn : Byte) (s : State), ∃ t, exec (.op6XNN x nn) s = .next t ∧
    t.reg x = nn ∧ OtherRegsSame [x] s t ∧ PcForward 2 s t ∧ ChangesOnly [.regs, .pc, .reply] s t) ∧
  (∀ (x y : Reg) (s : State), ∃ t, exec (.op8XY0 x y) s = .next t ∧
    t.reg x = s.reg y ∧ OtherRegsSame [x] s t ∧ PcForward 2 s t ∧ ChangesOnly [.regs, .pc, .reply] s t)

/-- R122: `7XNN` adds `nn` modulo 256 and records no carry. -/
def Obligations.AddImmediateWrapsWithoutFlag : Prop :=
  WordsDecodeTo 0xF000 0x7000 (fun f => .op7XNN f.x f.nn) ∧
  ∀ (x : Reg) (nn : Byte) (s : State), ∃ t, exec (.op7XNN x nn) s = .next t ∧
    (t.reg x).toNat = ((s.reg x).toNat + nn.toNat) % 256 ∧ OtherRegsSame [x] s t ∧ PcForward 2 s t ∧
    ChangesOnly [.regs, .pc, .reply] s t

/-- R124, R125, R126: OR, AND and XOR bit by bit. That `VF` is not cleared is the spec's D8 (log entry 12). -/
def Obligations.LogicIsBitwiseWithoutFlag : Prop :=
  WordsDecodeTo 0xF00F 0x8001 (fun f => .op8XY1 f.x f.y) ∧
  WordsDecodeTo 0xF00F 0x8002 (fun f => .op8XY2 f.x f.y) ∧
  WordsDecodeTo 0xF00F 0x8003 (fun f => .op8XY3 f.x f.y) ∧
  ∀ (x y : Reg) (s : State),
    (∃ t, exec (.op8XY1 x y) s = .next t ∧
      (∀ k, (t.reg x).getLsbD k = ((s.reg x).getLsbD k || (s.reg y).getLsbD k)) ∧
      OtherRegsSame [x] s t ∧ PcForward 2 s t ∧ ChangesOnly [.regs, .pc, .reply] s t) ∧
    (∃ t, exec (.op8XY2 x y) s = .next t ∧
      (∀ k, (t.reg x).getLsbD k = ((s.reg x).getLsbD k && (s.reg y).getLsbD k)) ∧
      OtherRegsSame [x] s t ∧ PcForward 2 s t ∧ ChangesOnly [.regs, .pc, .reply] s t) ∧
    (∃ t, exec (.op8XY3 x y) s = .next t ∧
      (∀ k, (t.reg x).getLsbD k = ((s.reg x).getLsbD k ^^ (s.reg y).getLsbD k)) ∧
      OtherRegsSame [x] s t ∧ PcForward 2 s t ∧ ChangesOnly [.regs, .pc, .reply] s t)

/-- R127: `8XY4` adds modulo 256 and `VF` is the carry. For `x = 15` the flag overwrites the sum and for `y = 15` the
old `VF` is added: the spec's D7 (log entry 10). -/
def Obligations.AddRegistersSetsCarry : Prop :=
  WordsDecodeTo 0xF00F 0x8004 (fun f => .op8XY4 f.x f.y) ∧
  ∀ (x y : Reg) (s : State), ∃ t, exec (.op8XY4 x y) s = .next t ∧
    (x ≠ vf → (t.reg x).toNat = ((s.reg x).toNat + (s.reg y).toNat) % 256) ∧
    (t.reg vf).toNat = (if (s.reg x).toNat + (s.reg y).toNat > 255 then 1 else 0) ∧
    OtherRegsSame [x, vf] s t ∧ PcForward 2 s t ∧ ChangesOnly [.regs, .pc, .reply] s t

/-- R128: `8XY5` subtracts modulo 256 and `VF` is 1 exactly when there is no borrow. `x = 15` and `y = 15` as in D7 (log
entry 10). -/
def Obligations.SubtractRegistersSetsNoBorrow : Prop :=
  WordsDecodeTo 0xF00F 0x8005 (fun f => .op8XY5 f.x f.y) ∧
  ∀ (x y : Reg) (s : State), ∃ t, exec (.op8XY5 x y) s = .next t ∧
    (x ≠ vf → (t.reg x).toNat = ((s.reg x).toNat + 256 - (s.reg y).toNat) % 256) ∧
    (t.reg vf).toNat = (if (s.reg x).toNat ≥ (s.reg y).toNat then 1 else 0) ∧
    OtherRegsSame [x, vf] s t ∧ PcForward 2 s t ∧ ChangesOnly [.regs, .pc, .reply] s t

/-- R130: `8XY7` as the spec writes it, `Vx − Vy` with `VF` 0 exactly when that is negative. The direction is the spec's
D9 (log entry 11); `x = 15` and `y = 15` as in D7 (log entry 10). -/
def Obligations.SubtractSevenSubtractsVyFromVx : Prop :=
  WordsDecodeTo 0xF00F 0x8007 (fun f => .op8XY7 f.x f.y) ∧
  ∀ (x y : Reg) (s : State), ∃ t, exec (.op8XY7 x y) s = .next t ∧
    (x ≠ vf → ((t.reg x).toNat : Int) = (((s.reg x).toNat : Int) - ((s.reg y).toNat : Int)) % 256) ∧
    (t.reg vf).toNat = (if ((s.reg x).toNat : Int) - ((s.reg y).toNat : Int) < 0 then 0 else 1) ∧
    OtherRegsSame [x, vf] s t ∧ PcForward 2 s t ∧ ChangesOnly [.regs, .pc, .reply] s t

/-- R129, R131: `8XY6` and `8XYE` shift `V[x]` by one place and `VF` is the bit shifted out; `y` is ignored. `x = 15` as
in D7 (log entry 10). -/
def Obligations.ShiftsByOneSetTheBitShiftedOut : Prop :=
  WordsDecodeTo 0xF00F 0x8006 (fun f => .op8XY6 f.x f.y) ∧
  WordsDecodeTo 0xF00F 0x800E (fun f => .op8XYE f.x f.y) ∧
  ∀ (x y : Reg) (s : State),
    (∃ t, exec (.op8XY6 x y) s = .next t ∧
      (x ≠ vf → (t.reg x).toNat = (s.reg x).toNat / 2) ∧ (t.reg vf).toNat = (s.reg x).toNat % 2 ∧
      OtherRegsSame [x, vf] s t ∧ PcForward 2 s t ∧ ChangesOnly [.regs, .pc, .reply] s t) ∧
    (∃ t, exec (.op8XYE x y) s = .next t ∧
      (x ≠ vf → (t.reg x).toNat = 2 * (s.reg x).toNat % 256) ∧ (t.reg vf).toNat = (s.reg x).toNat / 128 ∧
      OtherRegsSame [x, vf] s t ∧ PcForward 2 s t ∧ ChangesOnly [.regs, .pc, .reply] s t)

/-- R132: `CXNN` writes one fresh draw AND `nn`, whatever the draw is; the draw is used up, and no bit that is 0 in `nn`
is 1 in the result. The draw is a free value (log entry 2). -/
def Obligations.RandomIsMaskedByNn : Prop :=
  WordsDecodeTo 0xF000 0xC000 (fun f => .opCXNN f.x f.nn) ∧
  ∀ (x : Reg) (nn : Byte) (s : State), ∃ t, exec (.opCXNN x nn) s = .next t ∧
    t.reg x = Config.rand8 s.draws &&& nn ∧ t.draws = s.draws + 1 ∧
    (∀ k, nn.getLsbD k = false → (t.reg x).getLsbD k = false) ∧
    OtherRegsSame [x] s t ∧ PcForward 2 s t ∧ ChangesOnly [.regs, .draws, .pc, .reply] s t

/-! ## Index register and memory -/

/-- R140, R142: `ANNN` loads `I` with `nnn`; `FX29` loads it with the glyph address `5 × (V[x] mod 16)`. -/
def Obligations.IndexLoads : Prop :=
  WordsDecodeTo 0xF000 0xA000 (fun f => .opANNN f.nnn) ∧
  WordsDecodeTo 0xF0FF 0xF029 (fun f => .opFX29 f.x) ∧
  (∀ (nnn : Addr12) (s : State), ∃ t, exec (.opANNN nnn) s = .next t ∧
    t.i.toNat = nnn.toNat ∧ PcForward 2 s t ∧ ChangesOnly [.index, .pc, .reply] s t) ∧
  (∀ (x : Reg) (s : State), ∃ t, exec (.opFX29 x) s = .next t ∧
    t.i.toNat = 5 * ((s.reg x).toNat % 16) ∧ PcForward 2 s t ∧ ChangesOnly [.index, .pc, .reply] s t)

/-- R141: `FX1E` adds `V[x]` to `I` modulo 65536. That no flag is written is the spec's D8 (log entry 12). -/
def Obligations.AddToIndexWrapsWithoutFlag : Prop :=
  WordsDecodeTo 0xF0FF 0xF01E (fun f => .opFX1E f.x) ∧
  ∀ (x : Reg) (s : State), ∃ t, exec (.opFX1E x) s = .next t ∧
    t.i.toNat = (s.i.toNat + (s.reg x).toNat) % 65536 ∧ PcForward 2 s t ∧ ChangesOnly [.index, .pc, .reply] s t

/-- R143: `FX33` stores the three decimal digits at `I`, `I + 1`, `I + 2` and nothing else, or fails with nothing
written. That `I` is unchanged is the spec's D11 (log entry 17). -/
def Obligations.BcdStoresThreeDigits : Prop :=
  WordsDecodeTo 0xF0FF 0xF033 (fun f => .opFX33 f.x) ∧
  ∀ (x : Reg) (s : State),
    (s.base + 2 > 4095 → exec (.opFX33 x) s = .fault .outOfBounds) ∧
    (s.base + 2 ≤ 4095 → ∃ t, exec (.opFX33 x) s = .next t ∧
      (t.byteAt s.base).toNat = (s.reg x).toNat / 100 ∧
      (t.byteAt (s.base + 1)).toNat = (s.reg x).toNat / 10 % 10 ∧
      (t.byteAt (s.base + 2)).toNat = (s.reg x).toNat % 10 ∧
      (∀ a, a < s.base ∨ s.base + 3 ≤ a → t.byteAt a = s.byteAt a) ∧
      PcForward 2 s t ∧ ChangesOnly [.memory, .pc, .reply] s t)

/-- R144: `FX55` stores `V[0]..V[x]` at `I..I+x` and nothing else, or fails with nothing written. `I` unchanged: D11 (log
entry 17). -/
def Obligations.StoreRegistersCopiesTheBlock : Prop :=
  WordsDecodeTo 0xF0FF 0xF055 (fun f => .opFX55 f.x) ∧
  ∀ (x : Reg) (s : State),
    (s.base + x.toNat > 4095 → exec (.opFX55 x) s = .fault .outOfBounds) ∧
    (s.base + x.toNat ≤ 4095 → ∃ t, exec (.opFX55 x) s = .next t ∧
      (∀ k : Reg, k.toNat ≤ x.toNat → t.byteAt (s.base + k.toNat) = s.reg k) ∧
      (∀ a, a < s.base ∨ s.base + x.toNat < a → t.byteAt a = s.byteAt a) ∧
      PcForward 2 s t ∧ ChangesOnly [.memory, .pc, .reply] s t)

/-- R145: `FX65` loads `V[0]..V[x]` from `I..I+x` and no other register, or fails with none written. `I` unchanged: D11
(log entry 17). -/
def Obligations.LoadRegistersCopiesTheBlock : Prop :=
  WordsDecodeTo 0xF0FF 0xF065 (fun f => .opFX65 f.x) ∧
  ∀ (x : Reg) (s : State),
    (s.base + x.toNat > 4095 → exec (.opFX65 x) s = .fault .outOfBounds) ∧
    (s.base + x.toNat ≤ 4095 → ∃ t, exec (.opFX65 x) s = .next t ∧
      (∀ k : Reg, k.toNat ≤ x.toNat → t.reg k = s.byteAt (s.base + k.toNat)) ∧
      (∀ k : Reg, x.toNat < k.toNat → t.reg k = s.reg k) ∧
      PcForward 2 s t ∧ ChangesOnly [.regs, .pc, .reply] s t)

/-- R147: a dump and a reload with the same `I` and `x` give every register the value it had, whatever `Tick`s and keys
come in between. That `FX55` and `FX65` leave `I` as it is, so that the reload sees the same `I`, is the spec's D11 (log
entry 17). -/
def Obligations.DumpThenReloadRestoresRegisters : Prop :=
  ∀ (x : Reg) (s t t' : State), exec (.opFX55 x) s = .next t → SameProgramState t t' →
    ∃ u, exec (.opFX65 x) t' = .next u ∧ (∀ r, u.reg r = s.reg r) ∧ u.i = s.i ∧
      ∀ k : Reg, k.toNat ≤ x.toNat → u.byteAt (s.i.toNat + k.toNat) = s.reg k

/-! ## Display -/

/-- R150: `00E0` clears every cell and nothing else; `dirty = 1` (the spec's D15, log entry 22). -/
def Obligations.ClearScreenClearsEveryCell : Prop :=
  WordsDecodeTo 0xFFFF 0x00E0 (fun _ => .op00E0) ∧
  ∀ s : State, ∃ t, exec .op00E0 s = .next t ∧ (∀ c : Fin 2048, t.fb[c] = false) ∧
    t.pc.toNat = (s.pc.toNat + 2) % 65536 ∧ t.reply = { dirty := true } ∧ ChangesOnly [.display, .pc, .reply] s t

/-- R151: `DXYN` inverts exactly the cells under a 1 bit of the sprite, every pixel wrapped, and `VF` is 1 exactly when
one of them was lit; or it fails with nothing drawn. The bit order, the cell order, the wrap and the late flag are the
spec's D12, D13, D14 and D7 (log entries 10, 15 and 16); `dirty = 1` for every completed draw, an empty or all-zero sprite
among them, is its D15 (log entry 22). -/
def Obligations.DrawXorsTheSprite : Prop :=
  WordsDecodeTo 0xF000 0xD000 (fun f => .opDXYN f.x f.y f.n) ∧
  ∀ (x y : Reg) (n : Nibble) (s : State),
    (n.toNat > 0 ∧ s.i.toNat + n.toNat - 1 > 4095 → exec (.opDXYN x y n) s = .fault .outOfBounds) ∧
    (n.toNat = 0 ∨ s.i.toNat + n.toNat - 1 ≤ 4095 → ∃ t, exec (.opDXYN x y n) s = .next t ∧
      (∀ c : Fin 2048, t.fb[c] = true ↔
        Xor (s.fb[c] = true) (spriteLights s (s.reg x).toNat (s.reg y).toNat n.toNat c.val)) ∧
      (t.reg vf = 1 ↔ ∃ c : Fin 2048, s.fb[c] = true ∧
        spriteLights s (s.reg x).toNat (s.reg y).toNat n.toNat c.val) ∧
      (t.reg vf = 0 ∨ t.reg vf = 1) ∧ OtherRegsSame [vf] s t ∧
      t.pc.toNat = (s.pc.toNat + 2) % 65536 ∧ t.reply = { dirty := true } ∧
      ChangesOnly [.regs, .display, .pc, .reply] s t)

/-- R151, by its pseudocode: drawing the same sprite twice at the same place restores the framebuffer, and the second draw
collides exactly when a cell of the sprite was dark before the first. This departs from the rule's corner-case sentence,
which says that the second draw gives `VF = 1` if the sprite has any 1 bit, and so takes the covered cells to be dark
before the first draw (log entry 30). Bit order, cell order and wrap are the spec's D12, D13 and D14 (log entries 15 and
16). Coordinates in `VF` are shut out here, because the first draw overwrites `VF` (D7, log entry 10);
`DrawXorsTheSprite` covers them. -/
def Obligations.DrawingTwiceRestoresTheFramebuffer : Prop :=
  ∀ (x y : Reg) (n : Nibble) (s t t' : State), x ≠ vf → y ≠ vf → exec (.opDXYN x y n) s = .next t →
    SameProgramState t t' →
    ∃ u, exec (.opDXYN x y n) t' = .next u ∧ (∀ c : Fin 2048, u.fb[c] = s.fb[c]) ∧
      (u.reg vf = 1 ↔ ∃ c : Fin 2048, s.fb[c] = false ∧
        spriteLights s (s.reg x).toNat (s.reg y).toNat n.toNat c.val)

/-! ## Timers and keys -/

/-- R160, R163, R164: `FX07` reads the delay timer, `FX15` and `FX18` write the timers; no beep. -/
def Obligations.TimerInstructionsMoveTheTimers : Prop :=
  WordsDecodeTo 0xF0FF 0xF007 (fun f => .opFX07 f.x) ∧
  WordsDecodeTo 0xF0FF 0xF015 (fun f => .opFX15 f.x) ∧
  WordsDecodeTo 0xF0FF 0xF018 (fun f => .opFX18 f.x) ∧
  ∀ (x : Reg) (s : State),
    (∃ t, exec (.opFX07 x) s = .next t ∧ t.reg x = s.dt ∧ OtherRegsSame [x] s t ∧ PcForward 2 s t ∧
      ChangesOnly [.regs, .pc, .reply] s t) ∧
    (∃ t, exec (.opFX15 x) s = .next t ∧ t.dt = s.reg x ∧ PcForward 2 s t ∧ ChangesOnly [.delay, .pc, .reply] s t) ∧
    (∃ t, exec (.opFX18 x) s = .next t ∧ t.st = s.reg x ∧ PcForward 2 s t ∧ ChangesOnly [.sound, .pc, .reply] s t)

/-- R161: `FX0A` completes at once with the least key down, or enters the awaiting state with `PC` unchanged. The test in
the fetching `Step`, the level and the least key are the spec's D18 (log entry 14). -/
def Obligations.KeyWaitTakesAKeyOrAwaits : Prop :=
  WordsDecodeTo 0xF0FF 0xF00A (fun f => .opFX0A f.x) ∧
  ∀ (x : Reg) (s : State),
    (∀ k : Fin 16, s.keys[k] = true → (∀ j : Fin 16, j < k → s.keys[j] = false) →
      ∃ t, exec (.opFX0A x) s = .next t ∧ (t.reg x).toNat = k.val ∧ OtherRegsSame [x] s t ∧ PcForward 2 s t ∧
        ChangesOnly [.regs, .pc, .reply] s t) ∧
    ((∀ k : Fin 16, s.keys[k] = false) →
      ∃ t, exec (.opFX0A x) s = .next t ∧ t.await = true ∧ t.awaitX = x ∧ t.reply = {} ∧
        ChangesOnly [.awaiting, .reply] s t)
end

