-- ==== Sys2Proof/Laws/Decode.lean ====
section
/-! SUPPORT. The fields of a word, and the words the masks of the opcode map select. -/

namespace Sys2Proof

/-! ## Fields of a word put together from its parts -/

theorem decodeFields_nibbles (a b c d : Nibble) :
    decodeFields (a ++ b ++ c ++ d) = ⟨a, b, c, d, c ++ d, b ++ c ++ d⟩ := by
  simp only [decodeFields, Fields.mk.injEq]
  refine ⟨?_, ?_, ?_, ?_, ?_, ?_⟩ <;>
    · apply BitVec.eq_of_getLsbD_eq
      intro i hi
      simp only [BitVec.getLsbD_extractLsb', BitVec.getLsbD_append]
      interval_cases i <;> simp

/-- A byte is its two nibbles. -/
theorem byte_eq_nibbles (b : Byte) : b.extractLsb' 4 4 ++ b.extractLsb' 0 4 = b := by
  apply BitVec.eq_of_getLsbD_eq
  intro i hi
  simp only [BitVec.getLsbD_extractLsb', BitVec.getLsbD_append]
  interval_cases i <;> simp

/-- A 12-bit value is its three nibbles. -/
theorem addr12_eq_nibbles (a : Addr12) : a.extractLsb' 8 4 ++ a.extractLsb' 4 4 ++ a.extractLsb' 0 4 = a := by
  apply BitVec.eq_of_getLsbD_eq
  intro i hi
  simp only [BitVec.getLsbD_extractLsb', BitVec.getLsbD_append]
  interval_cases i <;> simp

/-- A word is its four nibbles. -/
theorem word_eq_nibbles (w : Word) :
    w.extractLsb' 12 4 ++ w.extractLsb' 8 4 ++ w.extractLsb' 4 4 ++ w.extractLsb' 0 4 = w := by
  apply BitVec.eq_of_getLsbD_eq
  intro i hi
  simp only [BitVec.getLsbD_extractLsb', BitVec.getLsbD_append]
  interval_cases i <;> simp

/-- Every field tuple that comes from a word is well formed (R81). -/
theorem decodeFields_wellFormed (w : Word) : (decodeFields w).wellFormed = true := by
  rw [← word_eq_nibbles w, decodeFields_nibbles]
  simp [Fields.wellFormed]

theorem decodeFields_byte (a b : Nibble) (nn : Byte) :
    (decodeFields (a ++ b ++ nn)).fam = a ∧ (decodeFields (a ++ b ++ nn)).x = b ∧ (decodeFields (a ++ b ++ nn)).nn = nn := by
  refine ⟨?_, ?_, ?_⟩ <;>
    · apply BitVec.eq_of_getLsbD_eq
      intro i hi
      simp only [decodeFields, BitVec.getLsbD_extractLsb', BitVec.getLsbD_append]
      interval_cases i <;> simp

theorem decodeFields_addr (a : Nibble) (nnn : Addr12) :
    (decodeFields (a ++ nnn)).fam = a ∧ (decodeFields (a ++ nnn)).nnn = nnn := by
  refine ⟨?_, ?_⟩ <;>
    · apply BitVec.eq_of_getLsbD_eq
      intro i hi
      simp only [decodeFields, BitVec.getLsbD_extractLsb', BitVec.getLsbD_append]
      interval_cases i <;> simp

/-! ## Masks: which words a row's mask and bits select -/

theorem nibbles_inj {a b c d a' b' c' d' : Nibble} (h : a ++ b ++ c ++ d = a' ++ b' ++ c' ++ d') :
    a = a' ∧ b = b' ∧ c = c' ∧ d = d' := by
  have h' := congrArg decodeFields h
  simp only [decodeFields_nibbles, Fields.mk.injEq] at h'
  exact ⟨h'.1, h'.2.1, h'.2.2.1, h'.2.2.2.1⟩

/-- A word under a mask of whole nibbles, nibble by nibble. -/
theorem nibbles_and (a b c d m1 m2 m3 m4 : Nibble) :
    (a ++ b ++ c ++ d) &&& (m1 ++ m2 ++ m3 ++ m4) = (a &&& m1) ++ (b &&& m2) ++ (c &&& m3) ++ (d &&& m4) := by
  simp only [BitVec.and_append]

/-- Mask 0xF000 selects on the family nibble. -/
theorem mask_family (w : Word) (a : Nibble) :
    w &&& 0xF000#16 = a ++ 0#4 ++ 0#4 ++ 0#4 ↔ (decodeFields w).fam = a := by
  rw [show (0xF000#16) = 0xF#4 ++ 0#4 ++ 0#4 ++ 0#4 from rfl, ← word_eq_nibbles w, nibbles_and, decodeFields_nibbles]
  have h15 : ∀ z : Nibble, z &&& 0xF#4 = z := by decide
  simp only [h15, BitVec.and_zero]
  exact ⟨fun h => (nibbles_inj h).1, fun h => by rw [h]⟩

/-- Mask 0xF00F selects on the family nibble and the low nibble. -/
theorem mask_family_low (w : Word) (a d : Nibble) :
    w &&& 0xF00F#16 = a ++ 0#4 ++ 0#4 ++ d ↔ (decodeFields w).fam = a ∧ (decodeFields w).n = d := by
  rw [show (0xF00F#16) = 0xF#4 ++ 0#4 ++ 0#4 ++ 0xF#4 from rfl, ← word_eq_nibbles w, nibbles_and, decodeFields_nibbles]
  have h15 : ∀ z : Nibble, z &&& 0xF#4 = z := by decide
  simp only [h15, BitVec.and_zero]
  exact ⟨fun h => ⟨(nibbles_inj h).1, (nibbles_inj h).2.2.2⟩, fun h => by rw [h.1, h.2]⟩

/-- Mask 0xF0FF selects on the family nibble and the low byte. -/
theorem mask_family_byte (w : Word) (a : Nibble) (nn : Byte) :
    w &&& 0xF0FF#16 = a ++ 0#4 ++ nn.extractLsb' 4 4 ++ nn.extractLsb' 0 4 ↔
      (decodeFields w).fam = a ∧ (decodeFields w).nn = nn := by
  rw [show (0xF0FF#16) = 0xF#4 ++ 0#4 ++ 0xF#4 ++ 0xF#4 from rfl, ← word_eq_nibbles w, nibbles_and, decodeFields_nibbles]
  have h15 : ∀ z : Nibble, z &&& 0xF#4 = z := by decide
  simp only [h15, BitVec.and_zero]
  constructor
  · intro h
    obtain ⟨h1, -, h3, h4⟩ := nibbles_inj h
    exact ⟨h1, by rw [h3, h4, byte_eq_nibbles]⟩
  · rintro ⟨h1, h2⟩
    have h2' := h2
    rw [← byte_eq_nibbles nn] at h2
    have h3 := congrArg (fun b : Byte => (b.extractLsb' 4 4, b.extractLsb' 0 4)) h2'
    simp only [Prod.mk.injEq] at h3
    rw [← h3.1, ← h3.2, h1]
    congr 1
    · congr 1
      apply BitVec.eq_of_getLsbD_eq
      intro i hi
      simp only [BitVec.getLsbD_extractLsb', BitVec.getLsbD_append]
      interval_cases i <;> simp
    · apply BitVec.eq_of_getLsbD_eq
      intro i hi
      simp only [BitVec.getLsbD_extractLsb', BitVec.getLsbD_append]
      interval_cases i <;> simp

/-- Mask 0xFFFF selects one word. -/
theorem mask_whole (w c : Word) : w &&& 0xFFFF#16 = c ↔ w = c := by
  have h : w &&& 0xFFFF#16 = w := by
    have : (0xFFFF#16) = BitVec.allOnes 16 := rfl
    rw [this, BitVec.and_allOnes]
  rw [h]

/-! ## Decoding -/

theorem decode_ok_iff (w : Word) (i : Instr) : decode w = .ok i ↔ select (decodeFields w) = some i := by
  unfold decode
  cases select (decodeFields w) <;> simp

theorem decode_error_iff (w : Word) : decode w = .error .unknownOpcode ↔ select (decodeFields w) = none := by
  unfold decode
  cases select (decodeFields w) <;> simp

/-- The bytes of a word are read back as that word. -/
@[simp] theorem wordOfBytes_bytesOfWord (w : Word) : wordOfBytes (w.extractLsb' 8 8) (w.extractLsb' 0 8) = w := by
  apply BitVec.eq_of_getLsbD_eq
  intro i hi
  simp only [wordOfBytes, BitVec.getLsbD_extractLsb', BitVec.getLsbD_append]
  interval_cases i <;> simp

/-! ## What a selection says about the fields -/

/-- The fields of a word that selects this instruction (R82, R84). -/
def Fits (f : Fields) : Instr → Prop
  | .op00E0 => f.fam = 0x0 ∧ f.nnn = 0x0E0
  | .op00EE => f.fam = 0x0 ∧ f.nnn = 0x0EE
  | .op1NNN nnn => f.fam = 0x1 ∧ f.nnn = nnn
  | .op2NNN nnn => f.fam = 0x2 ∧ f.nnn = nnn
  | .op3XNN x nn => f.fam = 0x3 ∧ f.x = x ∧ f.nn = nn
  | .op4XNN x nn => f.fam = 0x4 ∧ f.x = x ∧ f.nn = nn
  | .op5XY0 x y => f.fam = 0x5 ∧ f.x = x ∧ f.y = y ∧ f.n = 0x0
  | .op6XNN x nn => f.fam = 0x6 ∧ f.x = x ∧ f.nn = nn
  | .op7XNN x nn => f.fam = 0x7 ∧ f.x = x ∧ f.nn = nn
  | .op8XY0 x y => f.fam = 0x8 ∧ f.x = x ∧ f.y = y ∧ f.n = 0x0
  | .op8XY1 x y => f.fam = 0x8 ∧ f.x = x ∧ f.y = y ∧ f.n = 0x1
  | .op8XY2 x y => f.fam = 0x8 ∧ f.x = x ∧ f.y = y ∧ f.n = 0x2
  | .op8XY3 x y => f.fam = 0x8 ∧ f.x = x ∧ f.y = y ∧ f.n = 0x3
  | .op8XY4 x y => f.fam = 0x8 ∧ f.x = x ∧ f.y = y ∧ f.n = 0x4
  | .op8XY5 x y => f.fam = 0x8 ∧ f.x = x ∧ f.y = y ∧ f.n = 0x5
  | .op8XY6 x y => f.fam = 0x8 ∧ f.x = x ∧ f.y = y ∧ f.n = 0x6
  | .op8XY7 x y => f.fam = 0x8 ∧ f.x = x ∧ f.y = y ∧ f.n = 0x7
  | .op8XYE x y => f.fam = 0x8 ∧ f.x = x ∧ f.y = y ∧ f.n = 0xE
  | .op9XY0 x y => f.fam = 0x9 ∧ f.x = x ∧ f.y = y ∧ f.n = 0x0
  | .opANNN nnn => f.fam = 0xA ∧ f.nnn = nnn
  | .opBNNN nnn => f.fam = 0xB ∧ f.nnn = nnn
  | .opCXNN x nn => f.fam = 0xC ∧ f.x = x ∧ f.nn = nn
  | .opDXYN x y n => f.fam = 0xD ∧ f.x = x ∧ f.y = y ∧ f.n = n
  | .opEX9E x => f.fam = 0xE ∧ f.x = x ∧ f.nn = 0x9E
  | .opEXA1 x => f.fam = 0xE ∧ f.x = x ∧ f.nn = 0xA1
  | .opFX07 x => f.fam = 0xF ∧ f.x = x ∧ f.nn = 0x07
  | .opFX0A x => f.fam = 0xF ∧ f.x = x ∧ f.nn = 0x0A
  | .opFX15 x => f.fam = 0xF ∧ f.x = x ∧ f.nn = 0x15
  | .opFX18 x => f.fam = 0xF ∧ f.x = x ∧ f.nn = 0x18
  | .opFX1E x => f.fam = 0xF ∧ f.x = x ∧ f.nn = 0x1E
  | .opFX29 x => f.fam = 0xF ∧ f.x = x ∧ f.nn = 0x29
  | .opFX33 x => f.fam = 0xF ∧ f.x = x ∧ f.nn = 0x33
  | .opFX55 x => f.fam = 0xF ∧ f.x = x ∧ f.nn = 0x55
  | .opFX65 x => f.fam = 0xF ∧ f.x = x ∧ f.nn = 0x65

theorem selectArithmetic_fits {f : Fields} {i : Instr} (hf : f.fam = 0x8)
    (h : selectArithmetic f.x f.y f.n = some i) : Fits f i := by
  unfold selectArithmetic at h
  split at h
  all_goals first
    | cases h; done
    | next hn => cases h; exact ⟨hf, rfl, rfl, hn⟩

theorem selectMisc_fits {f : Fields} {i : Instr} (hf : f.fam = 0xF) (h : selectMisc f.x f.nn = some i) : Fits f i := by
  unfold selectMisc at h
  split at h
  all_goals first
    | cases h; done
    | next hn => cases h; exact ⟨hf, rfl, hn⟩

/-- The one inversion lemma of dispatch: a selected instruction fits the fields. -/
theorem select_fits {f : Fields} {i : Instr} (h : select f = some i) : Fits f i := by
  unfold select at h
  split at h
  case h_1 hf =>
    split at h
    all_goals first
      | cases h; done
      | next hn => cases h; exact ⟨hf, hn⟩
  case h_6 hf =>
    split at h
    · next hn => cases h; exact ⟨hf, rfl, rfl, hn⟩
    · cases h
  case h_9 hf => exact selectArithmetic_fits hf h
  case h_10 hf =>
    split at h
    · next hn => cases h; exact ⟨hf, rfl, rfl, hn⟩
    · cases h
  case h_15 hf =>
    split at h
    all_goals first
      | cases h; done
      | next hn => cases h; exact ⟨hf, rfl, hn⟩
  case h_16 hf => exact selectMisc_fits hf h
  case h_17 => cases h
  all_goals
    next hf =>
      cases h
      first
        | exact ⟨hf, rfl⟩
        | exact ⟨hf, rfl, rfl⟩
        | exact ⟨hf, rfl, rfl, rfl⟩

/-- And an instruction that fits the fields is the one selected. -/
theorem fits_select {f : Fields} {i : Instr} (h : Fits f i) : select f = some i := by
  cases i <;> simp only [Fits] at h <;> simp [select, selectArithmetic, selectMisc, h]

/-- Decoding, in terms of the fields. -/
theorem decode_ok_iff_fits (w : Word) (i : Instr) : decode w = .ok i ↔ Fits (decodeFields w) i :=
  (decode_ok_iff w i).trans ⟨select_fits, fits_select⟩

end Sys2Proof
end

