-- ==== Sys2Proof/Laws/Memory.lean ====
section
/-! SUPPORT. The laws of memory: read after write, runs of bytes, and the canonical form, which every operation keeps. -/

namespace Sys2Proof.Machine

variable {font : Font}

/-! ## Read after write, in every list of cells -/

theorem Memory.read_drop_same (m : Memory) (a : Nat) : Memory.read font (Memory.drop m a) a = unlisted font a := by
  induction m with
  | nil => rfl
  | cons c m ih =>
    by_cases h : c.1 = a
    · simpa [Memory.drop, h] using ih
    · simpa [Memory.drop, h, Memory.read] using ih

theorem Memory.read_drop_other (m : Memory) {a b : Nat} (h : b ≠ a) :
    Memory.read font (Memory.drop m a) b = Memory.read font m b := by
  induction m with
  | nil => rfl
  | cons c m ih =>
    obtain ⟨k, v⟩ := c
    by_cases hk : k = a
    · subst hk
      simpa [Memory.drop, Memory.read, Ne.symm h] using ih
    · by_cases hb : k = b
      · simp [Memory.drop, Memory.read, hb, h]
      · simpa [Memory.drop, Memory.read, hk, hb] using ih

theorem Memory.read_place_same (m : Memory) (a : Nat) (v : Byte) :
    Memory.read font (Memory.place (Memory.drop m a) a v) a = v := by
  induction m with
  | nil => simp [Memory.drop, Memory.place, Memory.read]
  | cons c m ih =>
    by_cases h : c.1 = a
    · simpa [Memory.drop, h] using ih
    · by_cases hl : a < c.1
      · simp [Memory.drop, h, Memory.place, hl, Memory.read]
      · simpa [Memory.drop, h, Memory.place, hl, Memory.read] using ih

theorem Memory.read_place_other (m : Memory) {a b : Nat} (v : Byte) (h : b ≠ a) :
    Memory.read font (Memory.place m a v) b = Memory.read font m b := by
  induction m with
  | nil => simp [Memory.place, Memory.read, Ne.symm h]
  | cons c m ih =>
    by_cases hl : a < c.1
    · simp [Memory.place, hl, Memory.read, Ne.symm h]
    · simp [Memory.place, hl, Memory.read, ih]

/-- Reading one byte after writing one (R53, R54): the byte written, and every other byte as before. -/
theorem Memory.read_write (m : Memory) (a b : Nat) (v : Byte) :
    Memory.read font (Memory.write font m a v) b = if b = a then v else Memory.read font m b := by
  by_cases hb : b = a
  · subst hb
    by_cases hv : v = unlisted font b
    · simp [Memory.write, hv, Memory.read_drop_same]
    · simp [Memory.write, hv, Memory.read_place_same]
  · by_cases hv : v = unlisted font a
    · simp [Memory.write, hv, hb, Memory.read_drop_other m hb]
    · simp [Memory.write, hv, hb, Memory.read_place_other _ v hb, Memory.read_drop_other m hb]

/-- Reading one byte after writing a run: the run's byte inside it, the old byte outside. -/
theorem Memory.read_writeAll (bs : List Byte) (m : Memory) (a b : Nat) :
    Memory.read font (Memory.writeAll font m a bs) b = if a ≤ b then bs.getD (b - a) (Memory.read font m b) else Memory.read font m b := by
  induction bs generalizing m a with
  | nil => simp [Memory.writeAll]
  | cons v bs ih =>
    rw [Memory.writeAll, ih, Memory.read_write]
    rcases Nat.lt_trichotomy b a with h | h | h
    · rw [if_neg (by omega), if_neg (by omega), if_neg (by omega)]
    · subst h
      rw [if_neg (by omega), if_pos rfl, if_pos (Nat.le_refl b), Nat.sub_self]
      rfl
    · obtain ⟨k, hk⟩ : ∃ k, b - a = k + 1 := ⟨b - a - 1, by omega⟩
      have hk' : b - (a + 1) = k := by omega
      rw [if_pos (by omega), if_neg (by omega), if_pos (by omega), hk, hk']
      rfl

theorem Memory.read_writeAll_outside (bs : List Byte) (m : Memory) {a b : Nat} (h : b < a ∨ a + bs.length ≤ b) :
    Memory.read font (Memory.writeAll font m a bs) b = Memory.read font m b := by
  rw [Memory.read_writeAll]
  split
  · exact List.getD_eq_default _ _ (by omega)
  · rfl

theorem Memory.read_writeAll_inside (bs : List Byte) (m : Memory) {a k : Nat} (h : k < bs.length) :
    Memory.read font (Memory.writeAll font m a bs) (a + k) = bs[k] := by
  rw [Memory.read_writeAll, if_pos (Nat.le_add_right a k), Nat.add_sub_cancel_left]
  exact List.getD_eq_getElem _ _ h

/-! ## The canonical form -/

theorem Memory.wfFrom_drop {m : Memory} {lo : Nat} (a : Nat) (h : Memory.wfFrom font lo m = true) :
    Memory.wfFrom font lo (Memory.drop m a) = true := by
  induction m generalizing lo with
  | nil => rfl
  | cons c m ih =>
    obtain ⟨k, v⟩ := c
    simp only [Memory.wfFrom, Bool.and_eq_true, decide_eq_true_eq] at h
    obtain ⟨⟨⟨h1, h2⟩, h3⟩, h4⟩ := h
    by_cases hk : k = a
    · have : ∀ {lo hi : Nat} {m : Memory}, lo ≤ hi → Memory.wfFrom font hi m = true → Memory.wfFrom font lo m = true := by
        intro lo hi m hle hm
        cases m with
        | nil => rfl
        | cons c m =>
          simp only [Memory.wfFrom, Bool.and_eq_true, decide_eq_true_eq] at hm ⊢
          exact ⟨⟨⟨by omega, hm.1.1.2⟩, hm.1.2⟩, hm.2⟩
      simpa [Memory.drop, hk] using ih (this (by omega) h4)
    · have := ih h4
      simp only [Memory.drop] at this
      simp [Memory.drop, hk, Memory.wfFrom, h1, h2, h3, this]

theorem Memory.wfFrom_place {m : Memory} {lo a : Nat} {v : Byte} (hlo : lo ≤ a) (ha : a < Config.memSize)
    (hv : v ≠ unlisted font a) (hm : ∀ c ∈ m, c.1 ≠ a) (h : Memory.wfFrom font lo m = true) :
    Memory.wfFrom font lo (Memory.place m a v) = true := by
  induction m generalizing lo with
  | nil => simp [Memory.place, Memory.wfFrom, hlo, ha, hv]
  | cons c m ih =>
    obtain ⟨k, w⟩ := c
    simp only [Memory.wfFrom, Bool.and_eq_true, decide_eq_true_eq] at h
    obtain ⟨⟨⟨h1, h2⟩, h3⟩, h4⟩ := h
    have hk : k ≠ a := hm (k, w) (by simp)
    by_cases hl : a < k
    · simp [Memory.place, Memory.wfFrom, hlo, ha, hv, h2, h3, h4, hl]
    · have := ih (lo := k + 1) (by omega) (fun c hc => hm c (by simp [hc])) h4
      simp [Memory.place, hl, Memory.wfFrom, h1, h2, h3, this]

/-- Writing a byte inside memory keeps the canonical form. -/
theorem Memory.wf_write {m : Memory} {a : Nat} (v : Byte) (ha : a < Config.memSize) (h : Memory.wf font m = true) :
    Memory.wf font (Memory.write font m a v) = true := by
  have hd := Memory.wfFrom_drop a h
  unfold Memory.write
  split
  · exact hd
  · next hv =>
    refine Memory.wfFrom_place (Nat.zero_le a) ha hv ?_ hd
    intro c hc
    simpa using (List.mem_filter.mp hc).2

/-- Writing a run of bytes inside memory keeps the canonical form. -/
theorem Memory.wf_writeAll {bs : List Byte} {m : Memory} {a : Nat} (ha : a + bs.length ≤ Config.memSize)
    (h : Memory.wf font m = true) : Memory.wf font (Memory.writeAll font m a bs) = true := by
  induction bs generalizing m a with
  | nil => exact h
  | cons v bs ih =>
    simp only [List.length_cons] at ha
    exact ih (by omega) (Memory.wf_write v (by omega) h)

/-! ## Equal memories are equal data -/

theorem Memory.read_below {m : Memory} {lo a : Nat} (h : Memory.wfFrom font lo m = true) (ha : a < lo) :
    Memory.read font m a = unlisted font a := by
  induction m generalizing lo with
  | nil => rfl
  | cons c m ih =>
    obtain ⟨k, v⟩ := c
    simp only [Memory.wfFrom, Bool.and_eq_true, decide_eq_true_eq] at h
    rw [Memory.read, if_neg (by omega)]
    exact ih h.2 (by omega)

/-- Two memories in canonical form that read alike are the same list. -/
theorem Memory.eq_of_read {m n : Memory} {lo : Nat} (hm : Memory.wfFrom font lo m = true) (hn : Memory.wfFrom font lo n = true)
    (h : ∀ a, Memory.read font m a = Memory.read font n a) : m = n := by
  induction m generalizing n lo with
  | nil =>
    cases n with
    | nil => rfl
    | cons c n =>
      obtain ⟨k, v⟩ := c
      simp only [Memory.wfFrom, Bool.and_eq_true, decide_eq_true_eq] at hn
      exact absurd (by simpa [Memory.read] using (h k).symm) hn.1.2
  | cons c m ih =>
    obtain ⟨k, v⟩ := c
    simp only [Memory.wfFrom, Bool.and_eq_true, decide_eq_true_eq] at hm
    cases n with
    | nil => exact absurd (by simpa [Memory.read] using h k) hm.1.2
    | cons d n =>
      obtain ⟨l, w⟩ := d
      simp only [Memory.wfFrom, Bool.and_eq_true, decide_eq_true_eq] at hn
      have hkl : k = l := by
        rcases Nat.lt_trichotomy k l with hlt | heq | hgt
        · have h1 := h k
          rw [Memory.read, if_pos rfl, Memory.read, if_neg (by omega), Memory.read_below hn.2 (by omega)] at h1
          exact absurd h1 hm.1.2
        · exact heq
        · have h1 := h l
          rw [Memory.read, if_neg (by omega), Memory.read_below hm.2 (by omega), Memory.read, if_pos rfl] at h1
          exact absurd h1.symm hn.1.2
      subst hkl
      have hvw : v = w := by simpa [Memory.read] using h k
      subst hvw
      rw [ih hm.2 hn.2 fun a => ?_]
      by_cases ha : k = a
      · subst ha
        rw [Memory.read_below hm.2 (by omega), Memory.read_below hn.2 (by omega)]
      · simpa [Memory.read, ha] using h a

end Sys2Proof.Machine
end

