-- ==== Sys2Proof/Laws/State.lean ====
section
/-! SUPPORT. One lemma per field of State per update: what the update leaves in that field. -/

namespace Sys2Proof.Machine

/-! ## setReg -/

@[simp] theorem State.setReg_v (s : State) (x : Reg) (b : Byte) : (s.setReg x b).v = s.v.set x.toNat b x.isLt := rfl
@[simp] theorem State.setReg_i (s : State) (x : Reg) (b : Byte) : (s.setReg x b).i = s.i := rfl
@[simp] theorem State.setReg_pc (s : State) (x : Reg) (b : Byte) : (s.setReg x b).pc = s.pc := rfl
@[simp] theorem State.setReg_sp (s : State) (x : Reg) (b : Byte) : (s.setReg x b).sp = s.sp := rfl
@[simp] theorem State.setReg_stk (s : State) (x : Reg) (b : Byte) : (s.setReg x b).stk = s.stk := rfl
@[simp] theorem State.setReg_mem (s : State) (x : Reg) (b : Byte) : (s.setReg x b).mem = s.mem := rfl
@[simp] theorem State.setReg_font (s : State) (x : Reg) (b : Byte) : (s.setReg x b).font = s.font := rfl
@[simp] theorem State.setReg_dt (s : State) (x : Reg) (b : Byte) : (s.setReg x b).dt = s.dt := rfl
@[simp] theorem State.setReg_st (s : State) (x : Reg) (b : Byte) : (s.setReg x b).st = s.st := rfl
@[simp] theorem State.setReg_fb (s : State) (x : Reg) (b : Byte) : (s.setReg x b).fb = s.fb := rfl
@[simp] theorem State.setReg_await (s : State) (x : Reg) (b : Byte) : (s.setReg x b).await = s.await := rfl
@[simp] theorem State.setReg_awaitX (s : State) (x : Reg) (b : Byte) : (s.setReg x b).awaitX = s.awaitX := rfl
@[simp] theorem State.setReg_keys (s : State) (x : Reg) (b : Byte) : (s.setReg x b).keys = s.keys := rfl
@[simp] theorem State.setReg_draws (s : State) (x : Reg) (b : Byte) : (s.setReg x b).draws = s.draws := rfl
@[simp] theorem State.setReg_reply (s : State) (x : Reg) (b : Byte) : (s.setReg x b).reply = s.reply := rfl
@[simp] theorem State.setReg_schedule (s : State) (x : Reg) (b : Byte) : (s.setReg x b).schedule = s.schedule := rfl
@[simp] theorem State.setReg_resetDone (s : State) (x : Reg) (b : Byte) : (s.setReg x b).resetDone = s.resetDone := rfl

/-! ## setFlag -/

@[simp] theorem State.setFlag_v (s : State) (c : Bool) : (s.setFlag c).v = s.v.set 15 (if c then 1 else 0) := rfl
@[simp] theorem State.setFlag_i (s : State) (c : Bool) : (s.setFlag c).i = s.i := rfl
@[simp] theorem State.setFlag_pc (s : State) (c : Bool) : (s.setFlag c).pc = s.pc := rfl
@[simp] theorem State.setFlag_sp (s : State) (c : Bool) : (s.setFlag c).sp = s.sp := rfl
@[simp] theorem State.setFlag_stk (s : State) (c : Bool) : (s.setFlag c).stk = s.stk := rfl
@[simp] theorem State.setFlag_mem (s : State) (c : Bool) : (s.setFlag c).mem = s.mem := rfl
@[simp] theorem State.setFlag_font (s : State) (c : Bool) : (s.setFlag c).font = s.font := rfl
@[simp] theorem State.setFlag_dt (s : State) (c : Bool) : (s.setFlag c).dt = s.dt := rfl
@[simp] theorem State.setFlag_st (s : State) (c : Bool) : (s.setFlag c).st = s.st := rfl
@[simp] theorem State.setFlag_fb (s : State) (c : Bool) : (s.setFlag c).fb = s.fb := rfl
@[simp] theorem State.setFlag_await (s : State) (c : Bool) : (s.setFlag c).await = s.await := rfl
@[simp] theorem State.setFlag_awaitX (s : State) (c : Bool) : (s.setFlag c).awaitX = s.awaitX := rfl
@[simp] theorem State.setFlag_keys (s : State) (c : Bool) : (s.setFlag c).keys = s.keys := rfl
@[simp] theorem State.setFlag_draws (s : State) (c : Bool) : (s.setFlag c).draws = s.draws := rfl
@[simp] theorem State.setFlag_reply (s : State) (c : Bool) : (s.setFlag c).reply = s.reply := rfl
@[simp] theorem State.setFlag_schedule (s : State) (c : Bool) : (s.setFlag c).schedule = s.schedule := rfl
@[simp] theorem State.setFlag_resetDone (s : State) (c : Bool) : (s.setFlag c).resetDone = s.resetDone := rfl

/-! ## setI -/

@[simp] theorem State.setI_v (s : State) (w : Word) : (s.setI w).v = s.v := rfl
@[simp] theorem State.setI_i (s : State) (w : Word) : (s.setI w).i = w := rfl
@[simp] theorem State.setI_pc (s : State) (w : Word) : (s.setI w).pc = s.pc := rfl
@[simp] theorem State.setI_sp (s : State) (w : Word) : (s.setI w).sp = s.sp := rfl
@[simp] theorem State.setI_stk (s : State) (w : Word) : (s.setI w).stk = s.stk := rfl
@[simp] theorem State.setI_mem (s : State) (w : Word) : (s.setI w).mem = s.mem := rfl
@[simp] theorem State.setI_font (s : State) (w : Word) : (s.setI w).font = s.font := rfl
@[simp] theorem State.setI_dt (s : State) (w : Word) : (s.setI w).dt = s.dt := rfl
@[simp] theorem State.setI_st (s : State) (w : Word) : (s.setI w).st = s.st := rfl
@[simp] theorem State.setI_fb (s : State) (w : Word) : (s.setI w).fb = s.fb := rfl
@[simp] theorem State.setI_await (s : State) (w : Word) : (s.setI w).await = s.await := rfl
@[simp] theorem State.setI_awaitX (s : State) (w : Word) : (s.setI w).awaitX = s.awaitX := rfl
@[simp] theorem State.setI_keys (s : State) (w : Word) : (s.setI w).keys = s.keys := rfl
@[simp] theorem State.setI_draws (s : State) (w : Word) : (s.setI w).draws = s.draws := rfl
@[simp] theorem State.setI_reply (s : State) (w : Word) : (s.setI w).reply = s.reply := rfl
@[simp] theorem State.setI_schedule (s : State) (w : Word) : (s.setI w).schedule = s.schedule := rfl
@[simp] theorem State.setI_resetDone (s : State) (w : Word) : (s.setI w).resetDone = s.resetDone := rfl

/-! ## setDT -/

@[simp] theorem State.setDT_v (s : State) (b : Byte) : (s.setDT b).v = s.v := rfl
@[simp] theorem State.setDT_i (s : State) (b : Byte) : (s.setDT b).i = s.i := rfl
@[simp] theorem State.setDT_pc (s : State) (b : Byte) : (s.setDT b).pc = s.pc := rfl
@[simp] theorem State.setDT_sp (s : State) (b : Byte) : (s.setDT b).sp = s.sp := rfl
@[simp] theorem State.setDT_stk (s : State) (b : Byte) : (s.setDT b).stk = s.stk := rfl
@[simp] theorem State.setDT_mem (s : State) (b : Byte) : (s.setDT b).mem = s.mem := rfl
@[simp] theorem State.setDT_font (s : State) (b : Byte) : (s.setDT b).font = s.font := rfl
@[simp] theorem State.setDT_dt (s : State) (b : Byte) : (s.setDT b).dt = b := rfl
@[simp] theorem State.setDT_st (s : State) (b : Byte) : (s.setDT b).st = s.st := rfl
@[simp] theorem State.setDT_fb (s : State) (b : Byte) : (s.setDT b).fb = s.fb := rfl
@[simp] theorem State.setDT_await (s : State) (b : Byte) : (s.setDT b).await = s.await := rfl
@[simp] theorem State.setDT_awaitX (s : State) (b : Byte) : (s.setDT b).awaitX = s.awaitX := rfl
@[simp] theorem State.setDT_keys (s : State) (b : Byte) : (s.setDT b).keys = s.keys := rfl
@[simp] theorem State.setDT_draws (s : State) (b : Byte) : (s.setDT b).draws = s.draws := rfl
@[simp] theorem State.setDT_reply (s : State) (b : Byte) : (s.setDT b).reply = s.reply := rfl
@[simp] theorem State.setDT_schedule (s : State) (b : Byte) : (s.setDT b).schedule = s.schedule := rfl
@[simp] theorem State.setDT_resetDone (s : State) (b : Byte) : (s.setDT b).resetDone = s.resetDone := rfl

/-! ## setST -/

@[simp] theorem State.setST_v (s : State) (b : Byte) : (s.setST b).v = s.v := rfl
@[simp] theorem State.setST_i (s : State) (b : Byte) : (s.setST b).i = s.i := rfl
@[simp] theorem State.setST_pc (s : State) (b : Byte) : (s.setST b).pc = s.pc := rfl
@[simp] theorem State.setST_sp (s : State) (b : Byte) : (s.setST b).sp = s.sp := rfl
@[simp] theorem State.setST_stk (s : State) (b : Byte) : (s.setST b).stk = s.stk := rfl
@[simp] theorem State.setST_mem (s : State) (b : Byte) : (s.setST b).mem = s.mem := rfl
@[simp] theorem State.setST_font (s : State) (b : Byte) : (s.setST b).font = s.font := rfl
@[simp] theorem State.setST_dt (s : State) (b : Byte) : (s.setST b).dt = s.dt := rfl
@[simp] theorem State.setST_st (s : State) (b : Byte) : (s.setST b).st = b := rfl
@[simp] theorem State.setST_fb (s : State) (b : Byte) : (s.setST b).fb = s.fb := rfl
@[simp] theorem State.setST_await (s : State) (b : Byte) : (s.setST b).await = s.await := rfl
@[simp] theorem State.setST_awaitX (s : State) (b : Byte) : (s.setST b).awaitX = s.awaitX := rfl
@[simp] theorem State.setST_keys (s : State) (b : Byte) : (s.setST b).keys = s.keys := rfl
@[simp] theorem State.setST_draws (s : State) (b : Byte) : (s.setST b).draws = s.draws := rfl
@[simp] theorem State.setST_reply (s : State) (b : Byte) : (s.setST b).reply = s.reply := rfl
@[simp] theorem State.setST_schedule (s : State) (b : Byte) : (s.setST b).schedule = s.schedule := rfl
@[simp] theorem State.setST_resetDone (s : State) (b : Byte) : (s.setST b).resetDone = s.resetDone := rfl

/-! ## setAwait -/

@[simp] theorem State.setAwait_v (s : State) (b : Bool) (x : Reg) : (s.setAwait b x).v = s.v := rfl
@[simp] theorem State.setAwait_i (s : State) (b : Bool) (x : Reg) : (s.setAwait b x).i = s.i := rfl
@[simp] theorem State.setAwait_pc (s : State) (b : Bool) (x : Reg) : (s.setAwait b x).pc = s.pc := rfl
@[simp] theorem State.setAwait_sp (s : State) (b : Bool) (x : Reg) : (s.setAwait b x).sp = s.sp := rfl
@[simp] theorem State.setAwait_stk (s : State) (b : Bool) (x : Reg) : (s.setAwait b x).stk = s.stk := rfl
@[simp] theorem State.setAwait_mem (s : State) (b : Bool) (x : Reg) : (s.setAwait b x).mem = s.mem := rfl
@[simp] theorem State.setAwait_font (s : State) (b : Bool) (x : Reg) : (s.setAwait b x).font = s.font := rfl
@[simp] theorem State.setAwait_dt (s : State) (b : Bool) (x : Reg) : (s.setAwait b x).dt = s.dt := rfl
@[simp] theorem State.setAwait_st (s : State) (b : Bool) (x : Reg) : (s.setAwait b x).st = s.st := rfl
@[simp] theorem State.setAwait_fb (s : State) (b : Bool) (x : Reg) : (s.setAwait b x).fb = s.fb := rfl
@[simp] theorem State.setAwait_await (s : State) (b : Bool) (x : Reg) : (s.setAwait b x).await = b := rfl
@[simp] theorem State.setAwait_awaitX (s : State) (b : Bool) (x : Reg) : (s.setAwait b x).awaitX = x := rfl
@[simp] theorem State.setAwait_keys (s : State) (b : Bool) (x : Reg) : (s.setAwait b x).keys = s.keys := rfl
@[simp] theorem State.setAwait_draws (s : State) (b : Bool) (x : Reg) : (s.setAwait b x).draws = s.draws := rfl
@[simp] theorem State.setAwait_reply (s : State) (b : Bool) (x : Reg) : (s.setAwait b x).reply = s.reply := rfl
@[simp] theorem State.setAwait_schedule (s : State) (b : Bool) (x : Reg) : (s.setAwait b x).schedule = s.schedule := rfl
@[simp] theorem State.setAwait_resetDone (s : State) (b : Bool) (x : Reg) : (s.setAwait b x).resetDone = s.resetDone := rfl

/-! ## setMem -/

@[simp] theorem State.setMem_v (s : State) (m : Memory) : (s.setMem m).v = s.v := rfl
@[simp] theorem State.setMem_i (s : State) (m : Memory) : (s.setMem m).i = s.i := rfl
@[simp] theorem State.setMem_pc (s : State) (m : Memory) : (s.setMem m).pc = s.pc := rfl
@[simp] theorem State.setMem_sp (s : State) (m : Memory) : (s.setMem m).sp = s.sp := rfl
@[simp] theorem State.setMem_stk (s : State) (m : Memory) : (s.setMem m).stk = s.stk := rfl
@[simp] theorem State.setMem_mem (s : State) (m : Memory) : (s.setMem m).mem = m := rfl
@[simp] theorem State.setMem_font (s : State) (m : Memory) : (s.setMem m).font = s.font := rfl
@[simp] theorem State.setMem_dt (s : State) (m : Memory) : (s.setMem m).dt = s.dt := rfl
@[simp] theorem State.setMem_st (s : State) (m : Memory) : (s.setMem m).st = s.st := rfl
@[simp] theorem State.setMem_fb (s : State) (m : Memory) : (s.setMem m).fb = s.fb := rfl
@[simp] theorem State.setMem_await (s : State) (m : Memory) : (s.setMem m).await = s.await := rfl
@[simp] theorem State.setMem_awaitX (s : State) (m : Memory) : (s.setMem m).awaitX = s.awaitX := rfl
@[simp] theorem State.setMem_keys (s : State) (m : Memory) : (s.setMem m).keys = s.keys := rfl
@[simp] theorem State.setMem_draws (s : State) (m : Memory) : (s.setMem m).draws = s.draws := rfl
@[simp] theorem State.setMem_reply (s : State) (m : Memory) : (s.setMem m).reply = s.reply := rfl
@[simp] theorem State.setMem_schedule (s : State) (m : Memory) : (s.setMem m).schedule = s.schedule := rfl
@[simp] theorem State.setMem_resetDone (s : State) (m : Memory) : (s.setMem m).resetDone = s.resetDone := rfl

/-! ## setFb -/

@[simp] theorem State.setFb_v (s : State) (f : Framebuffer) : (s.setFb f).v = s.v := rfl
@[simp] theorem State.setFb_i (s : State) (f : Framebuffer) : (s.setFb f).i = s.i := rfl
@[simp] theorem State.setFb_pc (s : State) (f : Framebuffer) : (s.setFb f).pc = s.pc := rfl
@[simp] theorem State.setFb_sp (s : State) (f : Framebuffer) : (s.setFb f).sp = s.sp := rfl
@[simp] theorem State.setFb_stk (s : State) (f : Framebuffer) : (s.setFb f).stk = s.stk := rfl
@[simp] theorem State.setFb_mem (s : State) (f : Framebuffer) : (s.setFb f).mem = s.mem := rfl
@[simp] theorem State.setFb_font (s : State) (f : Framebuffer) : (s.setFb f).font = s.font := rfl
@[simp] theorem State.setFb_dt (s : State) (f : Framebuffer) : (s.setFb f).dt = s.dt := rfl
@[simp] theorem State.setFb_st (s : State) (f : Framebuffer) : (s.setFb f).st = s.st := rfl
@[simp] theorem State.setFb_fb (s : State) (f : Framebuffer) : (s.setFb f).fb = f := rfl
@[simp] theorem State.setFb_await (s : State) (f : Framebuffer) : (s.setFb f).await = s.await := rfl
@[simp] theorem State.setFb_awaitX (s : State) (f : Framebuffer) : (s.setFb f).awaitX = s.awaitX := rfl
@[simp] theorem State.setFb_keys (s : State) (f : Framebuffer) : (s.setFb f).keys = s.keys := rfl
@[simp] theorem State.setFb_draws (s : State) (f : Framebuffer) : (s.setFb f).draws = s.draws := rfl
@[simp] theorem State.setFb_reply (s : State) (f : Framebuffer) : (s.setFb f).reply = s.reply := rfl
@[simp] theorem State.setFb_schedule (s : State) (f : Framebuffer) : (s.setFb f).schedule = s.schedule := rfl
@[simp] theorem State.setFb_resetDone (s : State) (f : Framebuffer) : (s.setFb f).resetDone = s.resetDone := rfl

/-! ## useDraw -/

@[simp] theorem State.useDraw_v (s : State) : s.useDraw.v = s.v := rfl
@[simp] theorem State.useDraw_i (s : State) : s.useDraw.i = s.i := rfl
@[simp] theorem State.useDraw_pc (s : State) : s.useDraw.pc = s.pc := rfl
@[simp] theorem State.useDraw_sp (s : State) : s.useDraw.sp = s.sp := rfl
@[simp] theorem State.useDraw_stk (s : State) : s.useDraw.stk = s.stk := rfl
@[simp] theorem State.useDraw_mem (s : State) : s.useDraw.mem = s.mem := rfl
@[simp] theorem State.useDraw_font (s : State) : s.useDraw.font = s.font := rfl
@[simp] theorem State.useDraw_dt (s : State) : s.useDraw.dt = s.dt := rfl
@[simp] theorem State.useDraw_st (s : State) : s.useDraw.st = s.st := rfl
@[simp] theorem State.useDraw_fb (s : State) : s.useDraw.fb = s.fb := rfl
@[simp] theorem State.useDraw_await (s : State) : s.useDraw.await = s.await := rfl
@[simp] theorem State.useDraw_awaitX (s : State) : s.useDraw.awaitX = s.awaitX := rfl
@[simp] theorem State.useDraw_keys (s : State) : s.useDraw.keys = s.keys := rfl
@[simp] theorem State.useDraw_draws (s : State) : s.useDraw.draws = s.draws + 1 := rfl
@[simp] theorem State.useDraw_reply (s : State) : s.useDraw.reply = s.reply := rfl
@[simp] theorem State.useDraw_schedule (s : State) : s.useDraw.schedule = s.schedule := rfl
@[simp] theorem State.useDraw_resetDone (s : State) : s.useDraw.resetDone = s.resetDone := rfl

/-! ## setReply -/

@[simp] theorem State.setReply_v (s : State) (r : Reply) : (s.setReply r).v = s.v := rfl
@[simp] theorem State.setReply_i (s : State) (r : Reply) : (s.setReply r).i = s.i := rfl
@[simp] theorem State.setReply_pc (s : State) (r : Reply) : (s.setReply r).pc = s.pc := rfl
@[simp] theorem State.setReply_sp (s : State) (r : Reply) : (s.setReply r).sp = s.sp := rfl
@[simp] theorem State.setReply_stk (s : State) (r : Reply) : (s.setReply r).stk = s.stk := rfl
@[simp] theorem State.setReply_mem (s : State) (r : Reply) : (s.setReply r).mem = s.mem := rfl
@[simp] theorem State.setReply_font (s : State) (r : Reply) : (s.setReply r).font = s.font := rfl
@[simp] theorem State.setReply_dt (s : State) (r : Reply) : (s.setReply r).dt = s.dt := rfl
@[simp] theorem State.setReply_st (s : State) (r : Reply) : (s.setReply r).st = s.st := rfl
@[simp] theorem State.setReply_fb (s : State) (r : Reply) : (s.setReply r).fb = s.fb := rfl
@[simp] theorem State.setReply_await (s : State) (r : Reply) : (s.setReply r).await = s.await := rfl
@[simp] theorem State.setReply_awaitX (s : State) (r : Reply) : (s.setReply r).awaitX = s.awaitX := rfl
@[simp] theorem State.setReply_keys (s : State) (r : Reply) : (s.setReply r).keys = s.keys := rfl
@[simp] theorem State.setReply_draws (s : State) (r : Reply) : (s.setReply r).draws = s.draws := rfl
@[simp] theorem State.setReply_reply (s : State) (r : Reply) : (s.setReply r).reply = r := rfl
@[simp] theorem State.setReply_schedule (s : State) (r : Reply) : (s.setReply r).schedule = s.schedule := rfl
@[simp] theorem State.setReply_resetDone (s : State) (r : Reply) : (s.setReply r).resetDone = s.resetDone := rfl

/-! ## retire -/

@[simp] theorem State.retire_v (s : State) (np : Word) (d : Bool) : (s.retire np d).v = s.v := rfl
@[simp] theorem State.retire_i (s : State) (np : Word) (d : Bool) : (s.retire np d).i = s.i := rfl
@[simp] theorem State.retire_pc (s : State) (np : Word) (d : Bool) : (s.retire np d).pc = np := rfl
@[simp] theorem State.retire_sp (s : State) (np : Word) (d : Bool) : (s.retire np d).sp = s.sp := rfl
@[simp] theorem State.retire_stk (s : State) (np : Word) (d : Bool) : (s.retire np d).stk = s.stk := rfl
@[simp] theorem State.retire_mem (s : State) (np : Word) (d : Bool) : (s.retire np d).mem = s.mem := rfl
@[simp] theorem State.retire_font (s : State) (np : Word) (d : Bool) : (s.retire np d).font = s.font := rfl
@[simp] theorem State.retire_dt (s : State) (np : Word) (d : Bool) : (s.retire np d).dt = s.dt := rfl
@[simp] theorem State.retire_st (s : State) (np : Word) (d : Bool) : (s.retire np d).st = s.st := rfl
@[simp] theorem State.retire_fb (s : State) (np : Word) (d : Bool) : (s.retire np d).fb = s.fb := rfl
@[simp] theorem State.retire_await (s : State) (np : Word) (d : Bool) : (s.retire np d).await = s.await := rfl
@[simp] theorem State.retire_awaitX (s : State) (np : Word) (d : Bool) : (s.retire np d).awaitX = s.awaitX := rfl
@[simp] theorem State.retire_keys (s : State) (np : Word) (d : Bool) : (s.retire np d).keys = s.keys := rfl
@[simp] theorem State.retire_draws (s : State) (np : Word) (d : Bool) : (s.retire np d).draws = s.draws := rfl
@[simp] theorem State.retire_reply (s : State) (np : Word) (d : Bool) : (s.retire np d).reply = { err := .none, dirty := d, beep := false } := rfl
@[simp] theorem State.retire_schedule (s : State) (np : Word) (d : Bool) : (s.retire np d).schedule = s.schedule := rfl
@[simp] theorem State.retire_resetDone (s : State) (np : Word) (d : Bool) : (s.retire np d).resetDone = s.resetDone := rfl

/-! ## takeCommand -/

@[simp] theorem State.takeCommand_v (s : State) : s.takeCommand.v = s.v := rfl
@[simp] theorem State.takeCommand_i (s : State) : s.takeCommand.i = s.i := rfl
@[simp] theorem State.takeCommand_pc (s : State) : s.takeCommand.pc = s.pc := rfl
@[simp] theorem State.takeCommand_sp (s : State) : s.takeCommand.sp = s.sp := rfl
@[simp] theorem State.takeCommand_stk (s : State) : s.takeCommand.stk = s.stk := rfl
@[simp] theorem State.takeCommand_mem (s : State) : s.takeCommand.mem = s.mem := rfl
@[simp] theorem State.takeCommand_font (s : State) : s.takeCommand.font = s.font := rfl
@[simp] theorem State.takeCommand_dt (s : State) : s.takeCommand.dt = s.dt := rfl
@[simp] theorem State.takeCommand_st (s : State) : s.takeCommand.st = s.st := rfl
@[simp] theorem State.takeCommand_fb (s : State) : s.takeCommand.fb = s.fb := rfl
@[simp] theorem State.takeCommand_await (s : State) : s.takeCommand.await = s.await := rfl
@[simp] theorem State.takeCommand_awaitX (s : State) : s.takeCommand.awaitX = s.awaitX := rfl
@[simp] theorem State.takeCommand_keys (s : State) : s.takeCommand.keys = s.keys := rfl
@[simp] theorem State.takeCommand_draws (s : State) : s.takeCommand.draws = s.draws := rfl
@[simp] theorem State.takeCommand_reply (s : State) : s.takeCommand.reply = s.reply := rfl
@[simp] theorem State.takeCommand_schedule (s : State) : s.takeCommand.schedule = s.schedule.tail := rfl
@[simp] theorem State.takeCommand_resetDone (s : State) : s.takeCommand.resetDone = s.resetDone := rfl

/-! ## setKeys -/

@[simp] theorem State.setKeys_v (s : State) (k : KeyVector) : (s.setKeys k).v = s.v := rfl
@[simp] theorem State.setKeys_i (s : State) (k : KeyVector) : (s.setKeys k).i = s.i := rfl
@[simp] theorem State.setKeys_pc (s : State) (k : KeyVector) : (s.setKeys k).pc = s.pc := rfl
@[simp] theorem State.setKeys_sp (s : State) (k : KeyVector) : (s.setKeys k).sp = s.sp := rfl
@[simp] theorem State.setKeys_stk (s : State) (k : KeyVector) : (s.setKeys k).stk = s.stk := rfl
@[simp] theorem State.setKeys_mem (s : State) (k : KeyVector) : (s.setKeys k).mem = s.mem := rfl
@[simp] theorem State.setKeys_font (s : State) (k : KeyVector) : (s.setKeys k).font = s.font := rfl
@[simp] theorem State.setKeys_dt (s : State) (k : KeyVector) : (s.setKeys k).dt = s.dt := rfl
@[simp] theorem State.setKeys_st (s : State) (k : KeyVector) : (s.setKeys k).st = s.st := rfl
@[simp] theorem State.setKeys_fb (s : State) (k : KeyVector) : (s.setKeys k).fb = s.fb := rfl
@[simp] theorem State.setKeys_await (s : State) (k : KeyVector) : (s.setKeys k).await = s.await := rfl
@[simp] theorem State.setKeys_awaitX (s : State) (k : KeyVector) : (s.setKeys k).awaitX = s.awaitX := rfl
@[simp] theorem State.setKeys_keys (s : State) (k : KeyVector) : (s.setKeys k).keys = k := rfl
@[simp] theorem State.setKeys_draws (s : State) (k : KeyVector) : (s.setKeys k).draws = s.draws := rfl
@[simp] theorem State.setKeys_reply (s : State) (k : KeyVector) : (s.setKeys k).reply = s.reply := rfl
@[simp] theorem State.setKeys_schedule (s : State) (k : KeyVector) : (s.setKeys k).schedule = s.schedule := rfl
@[simp] theorem State.setKeys_resetDone (s : State) (k : KeyVector) : (s.setKeys k).resetDone = s.resetDone := rfl

/-! ## setSchedule -/

@[simp] theorem State.setSchedule_v (s : State) (cs : List Command) : (s.setSchedule cs).v = s.v := rfl
@[simp] theorem State.setSchedule_i (s : State) (cs : List Command) : (s.setSchedule cs).i = s.i := rfl
@[simp] theorem State.setSchedule_pc (s : State) (cs : List Command) : (s.setSchedule cs).pc = s.pc := rfl
@[simp] theorem State.setSchedule_sp (s : State) (cs : List Command) : (s.setSchedule cs).sp = s.sp := rfl
@[simp] theorem State.setSchedule_stk (s : State) (cs : List Command) : (s.setSchedule cs).stk = s.stk := rfl
@[simp] theorem State.setSchedule_mem (s : State) (cs : List Command) : (s.setSchedule cs).mem = s.mem := rfl
@[simp] theorem State.setSchedule_font (s : State) (cs : List Command) : (s.setSchedule cs).font = s.font := rfl
@[simp] theorem State.setSchedule_dt (s : State) (cs : List Command) : (s.setSchedule cs).dt = s.dt := rfl
@[simp] theorem State.setSchedule_st (s : State) (cs : List Command) : (s.setSchedule cs).st = s.st := rfl
@[simp] theorem State.setSchedule_fb (s : State) (cs : List Command) : (s.setSchedule cs).fb = s.fb := rfl
@[simp] theorem State.setSchedule_await (s : State) (cs : List Command) : (s.setSchedule cs).await = s.await := rfl
@[simp] theorem State.setSchedule_awaitX (s : State) (cs : List Command) : (s.setSchedule cs).awaitX = s.awaitX := rfl
@[simp] theorem State.setSchedule_keys (s : State) (cs : List Command) : (s.setSchedule cs).keys = s.keys := rfl
@[simp] theorem State.setSchedule_draws (s : State) (cs : List Command) : (s.setSchedule cs).draws = s.draws := rfl
@[simp] theorem State.setSchedule_reply (s : State) (cs : List Command) : (s.setSchedule cs).reply = s.reply := rfl
@[simp] theorem State.setSchedule_schedule (s : State) (cs : List Command) : (s.setSchedule cs).schedule = cs := rfl
@[simp] theorem State.setSchedule_resetDone (s : State) (cs : List Command) : (s.setSchedule cs).resetDone = s.resetDone := rfl

/-! ## putBytes -/

@[simp] theorem State.putBytes_v (s : State) (a : Nat) (bs : List Byte) : (s.putBytes a bs).v = s.v := rfl
@[simp] theorem State.putBytes_i (s : State) (a : Nat) (bs : List Byte) : (s.putBytes a bs).i = s.i := rfl
@[simp] theorem State.putBytes_pc (s : State) (a : Nat) (bs : List Byte) : (s.putBytes a bs).pc = s.pc := rfl
@[simp] theorem State.putBytes_sp (s : State) (a : Nat) (bs : List Byte) : (s.putBytes a bs).sp = s.sp := rfl
@[simp] theorem State.putBytes_stk (s : State) (a : Nat) (bs : List Byte) : (s.putBytes a bs).stk = s.stk := rfl
@[simp] theorem State.putBytes_mem (s : State) (a : Nat) (bs : List Byte) : (s.putBytes a bs).mem = Memory.writeAll s.font s.mem a bs := rfl
@[simp] theorem State.putBytes_font (s : State) (a : Nat) (bs : List Byte) : (s.putBytes a bs).font = s.font := rfl
@[simp] theorem State.putBytes_dt (s : State) (a : Nat) (bs : List Byte) : (s.putBytes a bs).dt = s.dt := rfl
@[simp] theorem State.putBytes_st (s : State) (a : Nat) (bs : List Byte) : (s.putBytes a bs).st = s.st := rfl
@[simp] theorem State.putBytes_fb (s : State) (a : Nat) (bs : List Byte) : (s.putBytes a bs).fb = s.fb := rfl
@[simp] theorem State.putBytes_await (s : State) (a : Nat) (bs : List Byte) : (s.putBytes a bs).await = s.await := rfl
@[simp] theorem State.putBytes_awaitX (s : State) (a : Nat) (bs : List Byte) : (s.putBytes a bs).awaitX = s.awaitX := rfl
@[simp] theorem State.putBytes_keys (s : State) (a : Nat) (bs : List Byte) : (s.putBytes a bs).keys = s.keys := rfl
@[simp] theorem State.putBytes_draws (s : State) (a : Nat) (bs : List Byte) : (s.putBytes a bs).draws = s.draws := rfl
@[simp] theorem State.putBytes_reply (s : State) (a : Nat) (bs : List Byte) : (s.putBytes a bs).reply = s.reply := rfl
@[simp] theorem State.putBytes_schedule (s : State) (a : Nat) (bs : List Byte) : (s.putBytes a bs).schedule = s.schedule := rfl
@[simp] theorem State.putBytes_resetDone (s : State) (a : Nat) (bs : List Byte) : (s.putBytes a bs).resetDone = s.resetDone := rfl

/-! ## setV -/

@[simp] theorem State.setV_v (s : State) (w : Vector Byte 16) : (s.setV w).v = w := rfl
@[simp] theorem State.setV_i (s : State) (w : Vector Byte 16) : (s.setV w).i = s.i := rfl
@[simp] theorem State.setV_pc (s : State) (w : Vector Byte 16) : (s.setV w).pc = s.pc := rfl
@[simp] theorem State.setV_sp (s : State) (w : Vector Byte 16) : (s.setV w).sp = s.sp := rfl
@[simp] theorem State.setV_stk (s : State) (w : Vector Byte 16) : (s.setV w).stk = s.stk := rfl
@[simp] theorem State.setV_mem (s : State) (w : Vector Byte 16) : (s.setV w).mem = s.mem := rfl
@[simp] theorem State.setV_font (s : State) (w : Vector Byte 16) : (s.setV w).font = s.font := rfl
@[simp] theorem State.setV_dt (s : State) (w : Vector Byte 16) : (s.setV w).dt = s.dt := rfl
@[simp] theorem State.setV_st (s : State) (w : Vector Byte 16) : (s.setV w).st = s.st := rfl
@[simp] theorem State.setV_fb (s : State) (w : Vector Byte 16) : (s.setV w).fb = s.fb := rfl
@[simp] theorem State.setV_await (s : State) (w : Vector Byte 16) : (s.setV w).await = s.await := rfl
@[simp] theorem State.setV_awaitX (s : State) (w : Vector Byte 16) : (s.setV w).awaitX = s.awaitX := rfl
@[simp] theorem State.setV_keys (s : State) (w : Vector Byte 16) : (s.setV w).keys = s.keys := rfl
@[simp] theorem State.setV_draws (s : State) (w : Vector Byte 16) : (s.setV w).draws = s.draws := rfl
@[simp] theorem State.setV_reply (s : State) (w : Vector Byte 16) : (s.setV w).reply = s.reply := rfl
@[simp] theorem State.setV_schedule (s : State) (w : Vector Byte 16) : (s.setV w).schedule = s.schedule := rfl
@[simp] theorem State.setV_resetDone (s : State) (w : Vector Byte 16) : (s.setV w).resetDone = s.resetDone := rfl

/-! ## setStack -/

@[simp] theorem State.setStack_v (s : State) (p : Fin 17) (k : Vector Word 16) : (s.setStack p k).v = s.v := rfl
@[simp] theorem State.setStack_i (s : State) (p : Fin 17) (k : Vector Word 16) : (s.setStack p k).i = s.i := rfl
@[simp] theorem State.setStack_pc (s : State) (p : Fin 17) (k : Vector Word 16) : (s.setStack p k).pc = s.pc := rfl
@[simp] theorem State.setStack_sp (s : State) (p : Fin 17) (k : Vector Word 16) : (s.setStack p k).sp = p := rfl
@[simp] theorem State.setStack_stk (s : State) (p : Fin 17) (k : Vector Word 16) : (s.setStack p k).stk = k := rfl
@[simp] theorem State.setStack_mem (s : State) (p : Fin 17) (k : Vector Word 16) : (s.setStack p k).mem = s.mem := rfl
@[simp] theorem State.setStack_font (s : State) (p : Fin 17) (k : Vector Word 16) : (s.setStack p k).font = s.font := rfl
@[simp] theorem State.setStack_dt (s : State) (p : Fin 17) (k : Vector Word 16) : (s.setStack p k).dt = s.dt := rfl
@[simp] theorem State.setStack_st (s : State) (p : Fin 17) (k : Vector Word 16) : (s.setStack p k).st = s.st := rfl
@[simp] theorem State.setStack_fb (s : State) (p : Fin 17) (k : Vector Word 16) : (s.setStack p k).fb = s.fb := rfl
@[simp] theorem State.setStack_await (s : State) (p : Fin 17) (k : Vector Word 16) : (s.setStack p k).await = s.await := rfl
@[simp] theorem State.setStack_awaitX (s : State) (p : Fin 17) (k : Vector Word 16) : (s.setStack p k).awaitX = s.awaitX := rfl
@[simp] theorem State.setStack_keys (s : State) (p : Fin 17) (k : Vector Word 16) : (s.setStack p k).keys = s.keys := rfl
@[simp] theorem State.setStack_draws (s : State) (p : Fin 17) (k : Vector Word 16) : (s.setStack p k).draws = s.draws := rfl
@[simp] theorem State.setStack_reply (s : State) (p : Fin 17) (k : Vector Word 16) : (s.setStack p k).reply = s.reply := rfl
@[simp] theorem State.setStack_schedule (s : State) (p : Fin 17) (k : Vector Word 16) : (s.setStack p k).schedule = s.schedule := rfl
@[simp] theorem State.setStack_resetDone (s : State) (p : Fin 17) (k : Vector Word 16) : (s.setStack p k).resetDone = s.resetDone := rfl

end Sys2Proof.Machine
end

