-- ==== Sys2Proof/Laws/Ops.lean ====
section
/-! SUPPORT. What each shared operation does, said once: registers and the flag, the stack, runs of bytes, the fetch, the keys, the end of an instruction. -/

namespace Sys2Proof.Machine

/-! ## Registers -/

theorem State.reg_of_v {s t : State} (h : t.v = s.v) (r : Reg) : t.reg r = s.reg r := by
  simp only [State.reg, h]

theorem State.reg_setReg (s : State) (x r : Reg) (b : Byte) :
    (s.setReg x b).reg r = if r = x then b else s.reg r := by
  by_cases h : r = x
  · subst h; simp [State.reg]
  · have : x.toNat ≠ r.toNat := fun e => h (BitVec.eq_of_toNat_eq e.symm)
    simp [State.reg, h, Vector.getElem_set_ne _ _ this]

@[simp] theorem State.reg_setReg_same (s : State) (x : Reg) (b : Byte) : (s.setReg x b).reg x = b := by
  simp [State.reg_setReg]

theorem State.reg_setReg_other (s : State) {x r : Reg} (b : Byte) (h : r ≠ x) : (s.setReg x b).reg r = s.reg r := by
  simp [State.reg_setReg, h]

theorem State.reg_setFlag (s : State) (c : Bool) (r : Reg) :
    (s.setFlag c).reg r = if r = vf then (if c then 1 else 0) else s.reg r :=
  State.reg_setReg s vf r _

/-- The flag wins over the result when `x = 15` (R120). -/
theorem State.reg_setRegFlag (s : State) (x r : Reg) (b : Byte) (c : Bool) :
    (s.setRegFlag x b c).reg r = if r = vf then (if c then 1 else 0) else if r = x then b else s.reg r := by
  simp only [State.setRegFlag, State.reg_setFlag, State.reg_setReg]

@[simp] theorem State.reg_setStack (s : State) (sp : Fin 17) (k : Vector Word 16) (r : Reg) :
    (s.setStack sp k).reg r = s.reg r := rfl
@[simp] theorem State.reg_setI (s : State) (w : Word) (r : Reg) : (s.setI w).reg r = s.reg r := rfl
@[simp] theorem State.reg_setDT (s : State) (b : Byte) (r : Reg) : (s.setDT b).reg r = s.reg r := rfl
@[simp] theorem State.reg_setST (s : State) (b : Byte) (r : Reg) : (s.setST b).reg r = s.reg r := rfl
@[simp] theorem State.reg_setAwait (s : State) (b : Bool) (x r : Reg) : (s.setAwait b x).reg r = s.reg r := rfl
@[simp] theorem State.reg_setMem (s : State) (m : Memory) (r : Reg) : (s.setMem m).reg r = s.reg r := rfl
@[simp] theorem State.reg_putBytes (s : State) (a : Nat) (bs : List Byte) (r : Reg) : (s.putBytes a bs).reg r = s.reg r := rfl
@[simp] theorem State.reg_setFb (s : State) (f : Framebuffer) (r : Reg) : (s.setFb f).reg r = s.reg r := rfl
@[simp] theorem State.reg_useDraw (s : State) (r : Reg) : s.useDraw.reg r = s.reg r := rfl
@[simp] theorem State.reg_setReply (s : State) (p : Reply) (r : Reg) : (s.setReply p).reg r = s.reg r := rfl
@[simp] theorem State.reg_setKeys (s : State) (k : KeyVector) (r : Reg) : (s.setKeys k).reg r = s.reg r := rfl
@[simp] theorem State.reg_setSchedule (s : State) (cs : List Command) (r : Reg) : (s.setSchedule cs).reg r = s.reg r := rfl
@[simp] theorem State.reg_retire (s : State) (np : Word) (d : Bool) (r : Reg) : (s.retire np d).reg r = s.reg r := rfl

/-- Loading a run of registers changes only the register file. -/
theorem State.setRegsFrom_eq (bs : List Byte) (s : State) (k : Nat) :
    s.setRegsFrom k bs = s.setV (s.setRegsFrom k bs).v := by
  induction bs generalizing s k with
  | nil => rfl
  | cons b bs ih =>
    rw [State.setRegsFrom]
    rw [ih]
    rfl

/-- Register `r` after loading a run from register `k` on: the run's byte if the run reaches it. -/
theorem State.reg_setRegsFrom (bs : List Byte) (s : State) (k : Nat) (r : Reg) :
    (s.setRegsFrom k bs).reg r = if k ≤ r.toNat then bs.getD (r.toNat - k) (s.reg r) else s.reg r := by
  induction bs generalizing s k with
  | nil => simp [State.setRegsFrom]
  | cons b bs ih =>
    have hb : (s.setV (s.v.setIfInBounds k b)).reg r = if r.toNat = k then b else s.reg r := by
      simp only [State.reg, State.setV_v, Vector.getElem_setIfInBounds]
      by_cases h : k = r.toNat
      · simp [h]
      · simp [h, Ne.symm h]
    rw [State.setRegsFrom, ih, hb]
    rcases Nat.lt_trichotomy r.toNat k with h | h | h
    · rw [if_neg (by omega), if_neg (by omega), if_neg (by omega)]
    · rw [if_neg (by omega), if_pos h, if_pos (by omega), h, Nat.sub_self]
      rfl
    · obtain ⟨j, hj⟩ : ∃ j, r.toNat - k = j + 1 := ⟨r.toNat - k - 1, by omega⟩
      have hj' : r.toNat - (k + 1) = j := by omega
      rw [if_pos (by omega), if_neg (by omega), if_pos (by omega), hj, hj']
      rfl

@[simp] theorem State.length_regsUpTo (s : State) (x : Reg) : (s.regsUpTo x).length = x.toNat + 1 := by
  have := x.isLt
  simp only [State.regsUpTo, List.length_take, Vector.length_toList]
  omega

theorem State.getElem_regsUpTo (s : State) (x : Reg) (k : Nat) (h : k < (s.regsUpTo x).length) :
    (s.regsUpTo x)[k] = s.reg (BitVec.ofNat 4 k) := by
  rw [State.length_regsUpTo] at h
  have := x.isLt
  have hk : k % 16 = k := Nat.mod_eq_of_lt (by omega)
  simp [State.regsUpTo, State.reg, hk]

/-! ## Stack -/

/-- `Push` with room: the value on top, one entry more, every other entry as before (R26). -/
theorem State.push_spec {s t : State} {w : Word} (h : s.push w = .ok t) :
    ∃ hlt : s.sp.val < 16, t = s.setStack ⟨s.sp.val + 1, Nat.succ_lt_succ hlt⟩ (s.stk.set s.sp.val w hlt) := by
  unfold State.push at h
  split at h
  · next hlt => exact ⟨hlt, (Except.ok.inj h).symm⟩
  · cases h

theorem State.push_room (s : State) (w : Word) (hlt : s.sp.val < 16) :
    s.push w = .ok (s.setStack ⟨s.sp.val + 1, Nat.succ_lt_succ hlt⟩ (s.stk.set s.sp.val w hlt)) := by
  simp [State.push, hlt]

theorem State.push_full (s : State) (w : Word) (h : s.sp.val = 16) : s.push w = .error .stackOverflow := by
  simp [State.push, h]

theorem State.pop_empty (s : State) (h : s.sp.val = 0) : s.pop = .error .stackUnderflow := by
  simp [State.pop, h]

/-- `Pop` with a live entry: the top entry, one entry fewer, every entry's value as before (R27). -/
theorem State.pop_live (s : State) (h : s.sp.val ≠ 0) :
    ∃ hlt : s.sp.val - 1 < 16,
      s.pop = .ok (s.stk[s.sp.val - 1], s.setStack ⟨s.sp.val - 1, Nat.lt_succ_of_lt hlt⟩ s.stk) := by
  have hlt : s.sp.val - 1 < 16 := by have := s.sp.isLt; omega
  exact ⟨hlt, by simp [State.pop, h]⟩

/-! ## Memory as the state reads it -/

theorem State.byteAt_of_mem {s t : State} (hf : t.font = s.font) (hm : t.mem = s.mem) (a : Nat) : t.byteAt a = s.byteAt a := by
  simp only [State.byteAt, hf, hm]

@[simp] theorem State.byteAt_setReg (s : State) (x : Reg) (b : Byte) (a : Nat) : (s.setReg x b).byteAt a = s.byteAt a := rfl
@[simp] theorem State.byteAt_setFlag (s : State) (c : Bool) (a : Nat) : (s.setFlag c).byteAt a = s.byteAt a := rfl
@[simp] theorem State.byteAt_setV (s : State) (w : Vector Byte 16) (a : Nat) : (s.setV w).byteAt a = s.byteAt a := rfl
@[simp] theorem State.byteAt_setStack (s : State) (p : Fin 17) (k : Vector Word 16) (a : Nat) : (s.setStack p k).byteAt a = s.byteAt a := rfl
@[simp] theorem State.byteAt_setI (s : State) (w : Word) (a : Nat) : (s.setI w).byteAt a = s.byteAt a := rfl
@[simp] theorem State.byteAt_setDT (s : State) (b : Byte) (a : Nat) : (s.setDT b).byteAt a = s.byteAt a := rfl
@[simp] theorem State.byteAt_setST (s : State) (b : Byte) (a : Nat) : (s.setST b).byteAt a = s.byteAt a := rfl
@[simp] theorem State.byteAt_setAwait (s : State) (b : Bool) (x : Reg) (a : Nat) : (s.setAwait b x).byteAt a = s.byteAt a := rfl
@[simp] theorem State.byteAt_setFb (s : State) (f : Framebuffer) (a : Nat) : (s.setFb f).byteAt a = s.byteAt a := rfl
@[simp] theorem State.byteAt_useDraw (s : State) (a : Nat) : s.useDraw.byteAt a = s.byteAt a := rfl
@[simp] theorem State.byteAt_setReply (s : State) (r : Reply) (a : Nat) : (s.setReply r).byteAt a = s.byteAt a := rfl
@[simp] theorem State.byteAt_setKeys (s : State) (k : KeyVector) (a : Nat) : (s.setKeys k).byteAt a = s.byteAt a := rfl
@[simp] theorem State.byteAt_setSchedule (s : State) (cs : List Command) (a : Nat) : (s.setSchedule cs).byteAt a = s.byteAt a := rfl
@[simp] theorem State.byteAt_retire (s : State) (np : Word) (d : Bool) (a : Nat) : (s.retire np d).byteAt a = s.byteAt a := rfl

/-- One byte after a run was put: the run's byte inside it, the old byte outside. -/
theorem State.byteAt_putBytes (s : State) (a b : Nat) (bs : List Byte) :
    (s.putBytes a bs).byteAt b = if a ≤ b then bs.getD (b - a) (s.byteAt b) else s.byteAt b :=
  Memory.read_writeAll bs s.mem a b

theorem State.byteAt_putBytes_outside (s : State) {a b : Nat} {bs : List Byte} (h : b < a ∨ a + bs.length ≤ b) :
    (s.putBytes a bs).byteAt b = s.byteAt b :=
  Memory.read_writeAll_outside bs s.mem h

theorem State.byteAt_putBytes_inside (s : State) {a k : Nat} {bs : List Byte} (h : k < bs.length) :
    (s.putBytes a bs).byteAt (a + k) = bs[k] :=
  Memory.read_writeAll_inside bs s.mem h

@[simp] theorem State.length_bytesAt (s : State) (a n : Nat) : (s.bytesAt a n).length = n := by
  simp [State.bytesAt]

@[simp] theorem State.getElem_bytesAt (s : State) (a n k : Nat) (h : k < (s.bytesAt a n).length) :
    (s.bytesAt a n)[k] = s.byteAt (a + k) := by
  simp [State.bytesAt]

/-- Memory after `Reset`: the font, then zeros (R38, R200). -/
theorem byteAt_nil {s : State} (h : s.mem = []) (a : Nat) : s.byteAt a = s.font[a]?.getD 0 := by
  simp only [State.byteAt, h, Memory.read, unlisted]

/-! ## Runs of bytes and the fetch -/

theorem inBounds_iff (a n : Nat) : inBounds a n = true ↔ n = 0 ∨ a + n ≤ 4096 := by
  rw [inBounds, Bool.or_eq_true, decide_eq_true_eq, decide_eq_true_eq, Config.memSize]

theorem State.storeBytes_ok (s : State) {a : Nat} {bs : List Byte} (h : bs.length = 0 ∨ a + bs.length ≤ 4096) :
    s.storeBytes a bs = .ok (s.putBytes a bs) := by
  rw [State.storeBytes, if_pos ((inBounds_iff _ _).mpr h)]

theorem State.storeBytes_error (s : State) {a : Nat} {bs : List Byte} (h : ¬ (bs.length = 0 ∨ a + bs.length ≤ 4096)) :
    s.storeBytes a bs = .error .outOfBounds := by
  rw [State.storeBytes, if_neg (fun e => h ((inBounds_iff _ _).mp e))]

theorem State.loadBytes_ok (s : State) {a n : Nat} (h : n = 0 ∨ a + n ≤ 4096) :
    s.loadBytes a n = .ok (s.bytesAt a n) := by
  rw [State.loadBytes, if_pos ((inBounds_iff _ _).mpr h)]

theorem State.loadBytes_error (s : State) {a n : Nat} (h : ¬ (n = 0 ∨ a + n ≤ 4096)) :
    s.loadBytes a n = .error .outOfBounds := by
  rw [State.loadBytes, if_neg (fun e => h ((inBounds_iff _ _).mp e))]

/-- `storeBytes` answers only when every byte lies in memory, and then it writes just those bytes (R57). -/
theorem State.storeBytes_spec {s t : State} {a : Nat} {bs : List Byte} (h : s.storeBytes a bs = .ok t) :
    (bs.length = 0 ∨ a + bs.length ≤ 4096) ∧ t = s.putBytes a bs := by
  by_cases hb : bs.length = 0 ∨ a + bs.length ≤ 4096
  · rw [State.storeBytes_ok s hb] at h
    exact ⟨hb, (Except.ok.inj h).symm⟩
  · rw [State.storeBytes_error s hb] at h
    cases h

theorem State.fetch_ok (s : State) (h : s.pc.toNat + 1 < 4096) :
    s.fetch = .ok (s.byteAt s.pc.toNat ++ s.byteAt (s.pc.toNat + 1)) := by
  rw [State.fetch, if_pos (by simpa [Config.memSize] using h)]

theorem State.fetch_error (s : State) (h : ¬ s.pc.toNat + 1 < 4096) : s.fetch = .error .outOfBounds := by
  rw [State.fetch, if_neg (by simpa [Config.memSize] using h)]

/-- The fetch reads `PC` and memory and nothing else (R65). -/
theorem State.fetch_congr {s t : State} (hp : t.pc = s.pc) (hm : ∀ a, t.byteAt a = s.byteAt a) :
    t.fetch = s.fetch := by
  simp only [State.fetch, hp, hm]

/-! ## Keys -/

theorem leastKey_none {keys : KeyVector} : leastKey keys = none ↔ ∀ k : Fin 16, keys[k.val] = false := by
  simp [leastKey, List.find?_eq_none]

/-- The key found is down, and no key below it is (R161). -/
theorem leastKey_some {keys : KeyVector} {k : Fin 16} (h : leastKey keys = some k) :
    keys[k.val] = true ∧ ∀ j : Fin 16, j < k → keys[j.val] = false := by
  unfold leastKey at h
  rw [List.find?_eq_some_iff_getElem] at h
  obtain ⟨hk, i, hi, hget, hlt⟩ := h
  refine ⟨by simpa using hk, fun j hj => ?_⟩
  have hik : i = k.val := by rw [← hget]; simp
  have := hlt j.val (by rw [hik]; exact hj)
  simpa using this

/-- A key test reads the key vector and nothing else (R115). -/
theorem State.keyDown_congr {s t : State} (h : t.keys = s.keys) (b : Byte) : t.keyDown b = s.keyDown b := by
  simp only [State.keyDown, h]

/-- The least key down is the key found (R161). -/
theorem leastKey_of_least {keys : KeyVector} {k : Fin 16} (h : keys[k.val] = true)
    (hlt : ∀ j : Fin 16, j < k → keys[j.val] = false) : leastKey keys = some k := by
  cases hl : leastKey keys with
  | none => rw [leastKey_none.mp hl k] at h; cases h
  | some j =>
    obtain ⟨hj, hbelow⟩ := leastKey_some hl
    rcases lt_trichotomy j k with hjk | rfl | hkj
    · rw [hlt j hjk] at hj; cases hj
    · rfl
    · rw [hbelow k hkj] at h; cases h

/-! ## Arithmetic -/

theorem word_add_toNat (w : Word) (k : Nat) (h : k < 65536) : (w + BitVec.ofNat 16 k).toNat = (w.toNat + k) % 65536 := by
  rw [BitVec.toNat_add, BitVec.toNat_ofNat, Nat.mod_eq_of_lt h]

@[simp] theorem zext12_toNat (a : Addr12) : (zext12 a).toNat = a.toNat := by
  have := a.isLt
  simp only [zext12, BitVec.zeroExtend, BitVec.toNat_setWidth]
  omega

@[simp] theorem zext8_toNat (b : Byte) : (zext8 b).toNat = b.toNat := by
  have := b.isLt
  simp only [zext8, BitVec.zeroExtend, BitVec.toNat_setWidth]
  omega

end Sys2Proof.Machine
end

