-- ==== Sys2Proof/Laws/Display.lean ====
section
/-! SUPPORT. What drawing a sprite does: the cells it touches, each at most once, are inverted, and the hit says whether one of them was lit (44_display.md R151). -/

namespace Sys2Proof.Machine

/-- The cells of one sprite row, in the order the loop visits them. -/
def rowCells (col row : Nat) (b : Byte) : List (Fin 2048) :=
  ((List.range 8).filter fun k => b.getLsbD (7 - k)).map fun k => cellIndex row (col + k)

/-- The cells of a sprite, in the order the loop visits them. -/
def spriteCells (col row : Nat) : List Byte → List (Fin 2048)
  | [] => []
  | b :: bs => rowCells col row b ++ spriteCells col (row + 1) bs

/-! ## Drawing is inverting a list of cells -/

theorem drawByte_eq (f : Framebuffer × Bool) (col row : Nat) (b : Byte) :
    drawByte f col row b = (rowCells col row b).foldl drawPixel f := by
  rw [rowCells, List.foldl_map, List.foldl_filter]
  rfl

theorem drawSprite_eq (bs : List Byte) (f : Framebuffer × Bool) (col row : Nat) :
    drawSprite f col row bs = (spriteCells col row bs).foldl drawPixel f := by
  induction bs generalizing f row with
  | nil => rfl
  | cons b bs ih => rw [drawSprite, ih, drawByte_eq, spriteCells, List.foldl_append]

/-- Inverting distinct cells: a cell changes exactly when it is in the list. -/
theorem foldl_drawPixel_cell {cells : List (Fin 2048)} (hn : cells.Nodup) (f : Framebuffer × Bool) (c : Fin 2048) :
    (cells.foldl drawPixel f).1[c.val] = (if c ∈ cells then !f.1[c.val] else f.1[c.val]) := by
  induction cells generalizing f with
  | nil => simp
  | cons d cells ih =>
    rw [List.foldl_cons, ih (List.nodup_cons.mp hn).2]
    by_cases h : c = d
    · subst h
      simp [drawPixel, (List.nodup_cons.mp hn).1]
    · have hv : d.val ≠ c.val := fun e => h (Fin.ext e.symm)
      simp [drawPixel, Vector.getElem_set_ne _ _ hv, h]

/-- Inverting distinct cells: the hit is set exactly when one of them was lit. -/
theorem foldl_drawPixel_hit {cells : List (Fin 2048)} (hn : cells.Nodup) (f : Framebuffer × Bool) :
    (cells.foldl drawPixel f).2 = true ↔ f.2 = true ∨ ∃ c ∈ cells, f.1[c.val] = true := by
  induction cells generalizing f with
  | nil => simp
  | cons d cells ih =>
    have hd := (List.nodup_cons.mp hn).1
    rw [List.foldl_cons, ih (List.nodup_cons.mp hn).2]
    have key : ∀ c ∈ cells, (drawPixel f d).1[c.val] = f.1[c.val] := by
      intro c hc
      have hv : d.val ≠ c.val := fun e => hd (by rw [Fin.ext e]; exact hc)
      simp [drawPixel, Vector.getElem_set_ne _ _ hv]
    constructor
    · rintro (h | ⟨c, hc, h⟩)
      · rcases Bool.or_eq_true _ _ ▸ h with h | h
        · exact .inl h
        · exact .inr ⟨d, by simp, h⟩
      · exact .inr ⟨c, by simp [hc], by rw [← key c hc]; exact h⟩
    · rintro (h | ⟨c, hc, h⟩)
      · exact .inl (by simp [drawPixel, h])
      · rcases List.mem_cons.mp hc with rfl | hc
        · exact .inl (by simp [drawPixel, h])
        · exact .inr ⟨c, hc, by rw [key c hc]; exact h⟩

/-! ## The cells of a sprite -/

theorem cellIndex_val (row col : Nat) : (cellIndex row col).val = 64 * (row % 32) + col % 64 := rfl

theorem cellIndex_inj {r r' c c' : Nat} (h : cellIndex r c = cellIndex r' c') : r % 32 = r' % 32 ∧ c % 64 = c' % 64 := by
  have := congrArg Fin.val h
  simp only [cellIndex_val] at this
  omega

theorem mem_rowCells {col row : Nat} {b : Byte} {c : Fin 2048} :
    c ∈ rowCells col row b ↔ ∃ k, k < 8 ∧ b.getLsbD (7 - k) = true ∧ c = cellIndex row (col + k) := by
  simp only [rowCells, List.mem_map, List.mem_filter, List.mem_range]
  constructor
  · rintro ⟨k, ⟨hk, hb⟩, rfl⟩
    exact ⟨k, hk, hb, rfl⟩
  · rintro ⟨k, hk, hb, rfl⟩
    exact ⟨k, ⟨hk, hb⟩, rfl⟩

/-- A cell is in a sprite exactly when some row `r` and pixel `k` of it lie there (R151). -/
theorem mem_spriteCells {bs : List Byte} {col row : Nat} {c : Fin 2048} :
    c ∈ spriteCells col row bs ↔
      ∃ r k, ∃ _ : r < bs.length, k < 8 ∧ bs[r].getLsbD (7 - k) = true ∧ c = cellIndex (row + r) (col + k) := by
  induction bs generalizing row with
  | nil => simp [spriteCells]
  | cons b bs ih =>
    rw [spriteCells, List.mem_append, mem_rowCells, ih]
    constructor
    · rintro (⟨k, hk, hb, rfl⟩ | ⟨r, k, hr, hk, hb, rfl⟩)
      · exact ⟨0, k, by simp, hk, hb, rfl⟩
      · exact ⟨r + 1, k, by simpa using hr, hk, by simpa using hb, by congr 1; omega⟩
    · rintro ⟨r, k, hr, hk, hb, rfl⟩
      cases r with
      | zero => exact .inl ⟨k, hk, by simpa using hb, rfl⟩
      | succ r => exact .inr ⟨r, k, by simpa using hr, hk, by simpa using hb, by congr 1; omega⟩

/-- The cells the loop visits are those the rule says the sprite lights (R151). -/
theorem mem_spriteCells_iff_lights (s : State) (col row n : Nat) (c : Fin 2048) :
    c ∈ spriteCells col row (s.bytesAt s.base n) ↔ spriteLights s col row n c.val := by
  rw [mem_spriteCells]
  constructor
  · rintro ⟨r, k, hr, hk, hb, rfl⟩
    exact ⟨r, k, by simpa using hr, hk, by simpa using hb, rfl⟩
  · rintro ⟨r, k, hr, hk, hb, he⟩
    exact ⟨r, k, by simpa using hr, hk, by simpa using hb, Fin.ext he⟩

theorem nodup_rowCells (col row : Nat) (b : Byte) : (rowCells col row b).Nodup := by
  refine List.Nodup.map_on ?_ (List.Nodup.filter _ List.nodup_range)
  intro j hj k hk h
  have hj := List.mem_range.mp (List.mem_filter.mp hj).1
  have hk := List.mem_range.mp (List.mem_filter.mp hk).1
  have := (cellIndex_inj h).2
  omega

/-- A sprite of at most 32 rows touches no cell twice (R151). -/
theorem nodup_spriteCells {bs : List Byte} (col row : Nat) (h : bs.length ≤ 32) : (spriteCells col row bs).Nodup := by
  induction bs generalizing row with
  | nil => exact List.nodup_nil
  | cons b bs ih =>
    simp only [List.length_cons] at h
    refine List.nodup_append.mpr ⟨nodup_rowCells col row b, ih (row + 1) (by omega), ?_⟩
    rintro c hc _ hc' rfl
    obtain ⟨k, hk, -, rfl⟩ := mem_rowCells.mp hc
    obtain ⟨r, j, hr, -, -, he⟩ := mem_spriteCells.mp hc'
    have := (cellIndex_inj he).1
    omega

/-- A cell after drawing a sprite (R151). -/
theorem drawSprite_cell {bs : List Byte} (f : Framebuffer × Bool) (col row : Nat) (h : bs.length ≤ 32) (c : Fin 2048) :
    (drawSprite f col row bs).1[c.val] = (if c ∈ spriteCells col row bs then !f.1[c.val] else f.1[c.val]) := by
  rw [drawSprite_eq, foldl_drawPixel_cell (nodup_spriteCells col row h)]

/-- The hit after drawing a sprite: some cell of the sprite was lit (R151). -/
theorem drawSprite_hit {bs : List Byte} (f : Framebuffer × Bool) (col row : Nat) (h : bs.length ≤ 32) :
    (drawSprite f col row bs).2 = true ↔ f.2 = true ∨ ∃ c ∈ spriteCells col row bs, f.1[c.val] = true := by
  rw [drawSprite_eq, foldl_drawPixel_hit (nodup_spriteCells col row h)]

end Sys2Proof.Machine
end

