-- ==== Sys2Proof/Laws/PerInstr.lean ====
section
/-! SUPPORT. Per instruction: its encoding selects its own row of the opcode map (30_encoding.md R84). -/

namespace Sys2Proof.Laws.EncodesInRow

/-- The word of the instruction selects the row of the opcode map that bears the instruction's pattern. -/
def Statement (i : Instr) : Prop := ∃ r ∈ opcodeMap, r.pattern = patternOf i ∧ r.selects (encode i) = true

theorem of_row {i : Instr} (k : Fin 34) (hp : opcodeMap[k].pattern = patternOf i)
    (hs : encode i &&& opcodeMap[k].mask = opcodeMap[k].bits) : Statement i :=
  ⟨opcodeMap[k], List.getElem_mem _, hp, by simpa [OpcodeRow.selects] using hs⟩

theorem select_family (a : Nibble) (nnn : Addr12) : (a ++ nnn : Word) &&& 0xF000#16 = a ++ 0#4 ++ 0#4 ++ 0#4 :=
  (mask_family _ _).mpr (decodeFields_addr a nnn).1

theorem select_byte (a b : Nibble) (nn : Byte) : (a ++ b ++ nn : Word) &&& 0xF000#16 = a ++ 0#4 ++ 0#4 ++ 0#4 :=
  (mask_family _ _).mpr (decodeFields_byte a b nn).1

theorem select_nibbles (a b c d : Nibble) : (a ++ b ++ c ++ d : Word) &&& 0xF000#16 = a ++ 0#4 ++ 0#4 ++ 0#4 :=
  (mask_family _ _).mpr (by rw [decodeFields_nibbles])

theorem select_low (a b c d : Nibble) : (a ++ b ++ c ++ d : Word) &&& 0xF00F#16 = a ++ 0#4 ++ 0#4 ++ d :=
  (mask_family_low _ _ _).mpr (by rw [decodeFields_nibbles]; exact ⟨rfl, rfl⟩)

theorem select_function (a b : Nibble) (nn : Byte) :
    (a ++ b ++ nn : Word) &&& 0xF0FF#16 = a ++ 0#4 ++ nn.extractLsb' 4 4 ++ nn.extractLsb' 0 4 :=
  (mask_family_byte _ _ _).mpr ⟨(decodeFields_byte a b nn).1, (decodeFields_byte a b nn).2.2⟩

theorem op00E0 : Statement .op00E0 :=
  of_row 0 rfl (rfl)

theorem op00EE : Statement .op00EE :=
  of_row 1 rfl (rfl)

theorem op1NNN (nnn : Addr12) : Statement (.op1NNN nnn) :=
  of_row 2 rfl (select_family 0x1 nnn)

theorem op2NNN (nnn : Addr12) : Statement (.op2NNN nnn) :=
  of_row 3 rfl (select_family 0x2 nnn)

theorem op3XNN (x : Reg) (nn : Byte) : Statement (.op3XNN x nn) :=
  of_row 4 rfl (select_byte 0x3 x nn)

theorem op4XNN (x : Reg) (nn : Byte) : Statement (.op4XNN x nn) :=
  of_row 5 rfl (select_byte 0x4 x nn)

theorem op5XY0 (x y : Reg) : Statement (.op5XY0 x y) :=
  of_row 6 rfl (select_low 0x5 x y 0x0)

theorem op6XNN (x : Reg) (nn : Byte) : Statement (.op6XNN x nn) :=
  of_row 7 rfl (select_byte 0x6 x nn)

theorem op7XNN (x : Reg) (nn : Byte) : Statement (.op7XNN x nn) :=
  of_row 8 rfl (select_byte 0x7 x nn)

theorem op8XY0 (x y : Reg) : Statement (.op8XY0 x y) :=
  of_row 9 rfl (select_low 0x8 x y 0x0)

theorem op8XY1 (x y : Reg) : Statement (.op8XY1 x y) :=
  of_row 10 rfl (select_low 0x8 x y 0x1)

theorem op8XY2 (x y : Reg) : Statement (.op8XY2 x y) :=
  of_row 11 rfl (select_low 0x8 x y 0x2)

theorem op8XY3 (x y : Reg) : Statement (.op8XY3 x y) :=
  of_row 12 rfl (select_low 0x8 x y 0x3)

theorem op8XY4 (x y : Reg) : Statement (.op8XY4 x y) :=
  of_row 13 rfl (select_low 0x8 x y 0x4)

theorem op8XY5 (x y : Reg) : Statement (.op8XY5 x y) :=
  of_row 14 rfl (select_low 0x8 x y 0x5)

theorem op8XY6 (x y : Reg) : Statement (.op8XY6 x y) :=
  of_row 15 rfl (select_low 0x8 x y 0x6)

theorem op8XY7 (x y : Reg) : Statement (.op8XY7 x y) :=
  of_row 16 rfl (select_low 0x8 x y 0x7)

theorem op8XYE (x y : Reg) : Statement (.op8XYE x y) :=
  of_row 17 rfl (select_low 0x8 x y 0xE)

theorem op9XY0 (x y : Reg) : Statement (.op9XY0 x y) :=
  of_row 18 rfl (select_low 0x9 x y 0x0)

theorem opANNN (nnn : Addr12) : Statement (.opANNN nnn) :=
  of_row 19 rfl (select_family 0xA nnn)

theorem opBNNN (nnn : Addr12) : Statement (.opBNNN nnn) :=
  of_row 20 rfl (select_family 0xB nnn)

theorem opCXNN (x : Reg) (nn : Byte) : Statement (.opCXNN x nn) :=
  of_row 21 rfl (select_byte 0xC x nn)

theorem opDXYN (x y : Reg) (n : Nibble) : Statement (.opDXYN x y n) :=
  of_row 22 rfl (select_nibbles 0xD x y n)

theorem opEX9E (x : Reg) : Statement (.opEX9E x) :=
  of_row 23 rfl (select_function 0xE x 0x9E)

theorem opEXA1 (x : Reg) : Statement (.opEXA1 x) :=
  of_row 24 rfl (select_function 0xE x 0xA1)

theorem opFX07 (x : Reg) : Statement (.opFX07 x) :=
  of_row 25 rfl (select_function 0xF x 0x07)

theorem opFX0A (x : Reg) : Statement (.opFX0A x) :=
  of_row 26 rfl (select_function 0xF x 0x0A)

theorem opFX15 (x : Reg) : Statement (.opFX15 x) :=
  of_row 27 rfl (select_function 0xF x 0x15)

theorem opFX18 (x : Reg) : Statement (.opFX18 x) :=
  of_row 28 rfl (select_function 0xF x 0x18)

theorem opFX1E (x : Reg) : Statement (.opFX1E x) :=
  of_row 29 rfl (select_function 0xF x 0x1E)

theorem opFX29 (x : Reg) : Statement (.opFX29 x) :=
  of_row 30 rfl (select_function 0xF x 0x29)

theorem opFX33 (x : Reg) : Statement (.opFX33 x) :=
  of_row 31 rfl (select_function 0xF x 0x33)

theorem opFX55 (x : Reg) : Statement (.opFX55 x) :=
  of_row 32 rfl (select_function 0xF x 0x55)

theorem opFX65 (x : Reg) : Statement (.opFX65 x) :=
  of_row 33 rfl (select_function 0xF x 0x65)

end Sys2Proof.Laws.EncodesInRow
end

