-- ==== Sys2Proof/Laws/Sequence.lean ====
section
/-! SUPPORT. The ways a `Step` can go (30_encoding.md R86), one lemma each, and the inversions of `perform`: what an answer of each command says. -/

namespace Sys2Proof.Machine

/-! ## The `Step` sequence -/

theorem fetch_wordOfBytes (s : State) (h : s.pc.toNat + 1 < 4096) :
    s.fetch = .ok (wordOfBytes (s.byteAt s.pc.toNat) (s.byteAt (s.pc.toNat + 1))) :=
  State.fetch_ok s h

theorem stepInstruction_awaiting {s : State} (ha : s.await = true) : stepInstruction s = awaitKey s := by
  rw [stepInstruction, if_pos ha]

theorem stepInstruction_fetch_error {s : State} {f : Fault} (ha : s.await = false) (hf : s.fetch = .error f) :
    stepInstruction s = .fault f := by
  simp [stepInstruction, ha, hf, raise]

theorem stepInstruction_unknown {s : State} {w : Word} {e : DecodeError} (ha : s.await = false)
    (hf : s.fetch = .ok w) (hd : decode w = .error e) : stepInstruction s = .fault .unknownOpcode := by
  simp [stepInstruction, ha, hf, hd, raise]

theorem stepInstruction_decoded {s : State} {w : Word} {i : Instr} (ha : s.await = false)
    (hf : s.fetch = .ok w) (hd : decode w = .ok i) : stepInstruction s = exec i s := by
  simp [stepInstruction, ha, hf, hd]

/-- Everything a `Step` that completes can have been: an awaiting `Step`, or an instruction fetched, decoded and
executed. -/
theorem stepInstruction_next {s t : State} (h : stepInstruction s = .next t) :
    (s.await = true ∧ awaitKey s = .next t) ∨
    (s.await = false ∧ ∃ w i, s.fetch = .ok w ∧ decode w = .ok i ∧ exec i s = .next t) := by
  cases ha : s.await with
  | true => exact .inl ⟨rfl, by rwa [stepInstruction_awaiting ha] at h⟩
  | false =>
    refine .inr ⟨rfl, ?_⟩
    cases hf : s.fetch with
    | error f => rw [stepInstruction_fetch_error ha hf] at h; cases h
    | ok w =>
      cases hd : decode w with
      | error e => rw [stepInstruction_unknown ha hf hd] at h; cases h
      | ok i => exact ⟨w, i, rfl, hd, by rwa [stepInstruction_decoded ha hf hd] at h⟩

/-- Everything an awaiting `Step` can leave (R162). -/
theorem awaitKey_next {s t : State} (h : awaitKey s = .next t) :
    (∃ k, leastKey s.keys = some k ∧
      t = ((s.setReg s.awaitX (keyByte k)).setAwait false s.awaitX).retire (s.pc + 2) false) ∨
    (leastKey s.keys = none ∧ t = s.retire s.pc false) := by
  unfold awaitKey at h
  split at h
  · next k hk => exact .inl ⟨k, hk, (Host.Outcome.next.inj h).symm⟩
  · next hk => exact .inr ⟨hk, (Host.Outcome.next.inj h).symm⟩

/-! ## Commands -/

theorem perform_step {s : State} (h : s.resetDone = true) (keys : KeyVector) :
    perform (.step keys) s = stepInstruction (s.setKeys keys) := by
  rw [perform, if_pos h]

/-- Everything a command that answers can have been. -/
theorem perform_next {c : Command} {s t : State} (h : perform c s = .next t) :
    (c = .reset ∧ t = s.doReset) ∨
    (s.resetDone = true ∧
      ((∃ image, c = .loadProgram image ∧ t = s.loadProgram image) ∨
       (∃ keys, c = .step keys ∧ stepInstruction (s.setKeys keys) = .next t) ∨
       (c = .tick ∧ t = s.tick) ∨ (∃ i, c = .readCell i ∧ t = s.readCell i))) := by
  cases hr : s.resetDone <;> cases c <;> simp_all [perform]

theorem programWellFormed_iff (image : List Byte) : programWellFormed image = true ↔ image.length ≤ 0xE00 := by
  rw [programWellFormed, decide_eq_true_eq, Config.progMax]

/-- `LoadProgram` of an image that fits (R58). -/
theorem State.loadProgram_fits (s : State) {image : List Byte} (h : image.length ≤ 0xE00) :
    s.loadProgram image = (s.putBytes 0x200 image).setReply {} := by
  rw [State.loadProgram, if_pos ((programWellFormed_iff image).mpr h)]
  rfl

/-- `LoadProgram` of an image that does not fit (R58). -/
theorem State.loadProgram_tooLarge (s : State) {image : List Byte} (h : image.length > 0xE00) :
    s.loadProgram image = s.setReply { err := .programTooLarge } := by
  rw [State.loadProgram, if_neg (fun e => absurd ((programWellFormed_iff image).mp e) (Nat.not_le.mpr h))]

end Sys2Proof.Machine
end

