-- ==== Sys2Proof/Listing.lean ====
section
/-! DEFINITION. The assembler aliases of 30_encoding.md R84 and R90, for listings only (D30): no rule depends on them. -/

namespace Sys2Proof

/-- A hexadecimal digit, capitals as R20 writes register names. -/
def hexDigit (n : Nibble) : String := ["0", "1", "2", "3", "4", "5", "6", "7", "8", "9", "A", "B", "C", "D", "E", "F"].getD n.toNat ""

/-- A register operand `Vx` (R90). -/
def listReg (x : Reg) : String := "V" ++ hexDigit x

/-- An 8-bit number operand (R90). -/
def listByte (b : Byte) : String := "0x" ++ hexDigit (b.extractLsb' 4 4) ++ hexDigit (b.extractLsb' 0 4)

/-- A 12-bit number operand (R90). -/
def listAddr (a : Addr12) : String :=
  "0x" ++ hexDigit (a.extractLsb' 8 4) ++ hexDigit (a.extractLsb' 4 4) ++ hexDigit (a.extractLsb' 0 4)

/-- The alias of an instruction: a mnemonic, then its operands separated by commas (R84, R90). -/
def listing : Instr → String
  | .op00E0       => "CLS"
  | .op00EE       => "RET"
  | .op1NNN nnn   => "JP " ++ listAddr nnn
  | .op2NNN nnn   => "CALL " ++ listAddr nnn
  | .op3XNN x nn  => "SE " ++ listReg x ++ ", " ++ listByte nn
  | .op4XNN x nn  => "SNE " ++ listReg x ++ ", " ++ listByte nn
  | .op5XY0 x y   => "SE " ++ listReg x ++ ", " ++ listReg y
  | .op6XNN x nn  => "LD " ++ listReg x ++ ", " ++ listByte nn
  | .op7XNN x nn  => "ADD " ++ listReg x ++ ", " ++ listByte nn
  | .op8XY0 x y   => "LD " ++ listReg x ++ ", " ++ listReg y
  | .op8XY1 x y   => "OR " ++ listReg x ++ ", " ++ listReg y
  | .op8XY2 x y   => "AND " ++ listReg x ++ ", " ++ listReg y
  | .op8XY3 x y   => "XOR " ++ listReg x ++ ", " ++ listReg y
  | .op8XY4 x y   => "ADD " ++ listReg x ++ ", " ++ listReg y
  | .op8XY5 x y   => "SUB " ++ listReg x ++ ", " ++ listReg y
  | .op8XY6 x _   => "SHR " ++ listReg x
  | .op8XY7 x y   => "SUB7 " ++ listReg x ++ ", " ++ listReg y
  | .op8XYE x _   => "SHL " ++ listReg x
  | .op9XY0 x y   => "SNE " ++ listReg x ++ ", " ++ listReg y
  | .opANNN nnn   => "LD I, " ++ listAddr nnn
  | .opBNNN nnn   => "JP V0, " ++ listAddr nnn
  | .opCXNN x nn  => "RND " ++ listReg x ++ ", " ++ listByte nn
  | .opDXYN x y n => "DRW " ++ listReg x ++ ", " ++ listReg y ++ ", " ++ toString n.toNat
  | .opEX9E x     => "SKP " ++ listReg x
  | .opEXA1 x     => "SKNP " ++ listReg x
  | .opFX07 x     => "LD " ++ listReg x ++ ", DT"
  | .opFX0A x     => "LD " ++ listReg x ++ ", K"
  | .opFX15 x     => "LD DT, " ++ listReg x
  | .opFX18 x     => "LD ST, " ++ listReg x
  | .opFX1E x     => "ADD I, " ++ listReg x
  | .opFX29 x     => "LD F, " ++ listReg x
  | .opFX33 x     => "LD B, " ++ listReg x
  | .opFX55 x     => "LD [I], " ++ listReg x
  | .opFX65 x     => "LD " ++ listReg x ++ ", [I]"

end Sys2Proof
end

