-- ==== Sys2Proof/Tests/Slice0.lean ====
section
/-! SUPPORT. Tests: the decoder on words written out from the opcode map, what well-formedness refuses, vectors of 95_test_vectors.md (their names are the test names' last part), and a witness for every obligation that has hypotheses. Expected values come from the spec, none from the model. -/

namespace Sys2Proof.Tests

open Sys2Proof Sys2Proof.Machine

set_option Elab.async false

/-! ## Helpers -/

/-- Keys down, by number. -/
def keysDown (ks : List Nat) : KeyVector := Vector.ofFn fun k : Fin 16 => decide (k.val ∈ ks)

/-- The reset state with some registers set. -/
def regs (rs : List (Reg × Byte)) : State := rs.foldl (fun s r => s.setReg r.1 r.2) State.reset

/-- A state with its program counter set. -/
def atPc (s : State) (pc : Word) : State := { s with pc := pc }

/-- A state with some stack entries live. -/
def depth (s : State) (sp : Fin 17) (stk : Vector Word 16) : State := s.setStack sp stk

/-- A state with bytes stored from an address. -/
def withBytes (s : State) (a : Nat) (bs : List Byte) : State := s.putBytes a bs

/-- A state with some cells lit. -/
def lit (s : State) (cs : List (Fin 2048)) : State := s.setFb (cs.foldl (fun f c => f.set c.val true c.isLt) s.fb)

/-- Is a cell lit, by row and column? -/
def cell (t : State) (row col : Nat) : Bool := t.fb.toList.getD (64 * row + col) false

/-- How many cells are lit. -/
def litCount (t : State) : Nat := t.fb.toList.countP id

/-- A state whose keys are held. -/
def holding (s : State) (ks : List Nat) : State := s.setKeys (keysDown ks)

/-- One step on the word placed at `PC`. -/
def stepOn (s : State) (w : Nat) : Host.Outcome State Fault Refusal := step (s.withFetchWord 16 w)

/-- The outcome is a next state of which `p` holds. -/
def next (o : Host.Outcome State Fault Refusal) (p : State → Bool) : Bool :=
  match o with
  | .next t    => p t
  | .fault _   => false
  | .refused _ => false

/-- The outcome is this fault. -/
def faults (o : Host.Outcome State Fault Refusal) (f : Fault) : Bool :=
  match o with
  | .next _    => false
  | .fault g   => decide (g = f)
  | .refused _ => false

theorem eq_fault_of_faults {o : Host.Outcome State Fault Refusal} {f : Fault} (h : faults o f = true) : o = .fault f := by
  cases o <;> simp_all [faults]

/-- Does the decoder call the word unknown? -/
def unknown (w : Word) : Bool := decide (decode w = .error .unknownOpcode)

/-- A program image of some length. -/
def image (n : Nat) (b : Byte) : List Byte := List.replicate n b

/-! ## What well-formedness refuses -/

theorem test_fields_wellFormed : Fields.wellFormed ⟨0x3, 0xA, 0x0, 0x5, 0x05, 0xA05⟩ = true := by decide
theorem test_fields_refuse_nn : Fields.wellFormed ⟨0x3, 0xA, 0x0, 0x5, 0x06, 0xA05⟩ = false := by decide
theorem test_fields_refuse_nnn : Fields.wellFormed ⟨0x3, 0xA, 0x0, 0x5, 0x05, 0xB05⟩ = false := by decide
theorem test_program_longest : programWellFormed (image 3584 0xAA) = true := by decide +kernel
theorem test_program_refuse_S4 : programWellFormed (image 3585 0xAA) = false := by decide +kernel
theorem test_instr_wellFormed : Instr.wellFormed (.op8XY6 0xF 0xF) = true := by decide
theorem test_memory_wf : Memory.wf fontset [(0, 0xF1), (80, 1), (4095, 2)] = true := by decide
theorem test_memory_refuse_unsorted : Memory.wf fontset [(81, 1), (80, 1)] = false := by decide
theorem test_memory_refuse_twice : Memory.wf fontset [(80, 1), (80, 2)] = false := by decide
theorem test_memory_refuse_outside : Memory.wf fontset [(4096, 1)] = false := by decide
theorem test_memory_refuse_font_byte : Memory.wf fontset [(0, 0xF0)] = false := by decide
theorem test_memory_refuse_zero : Memory.wf fontset [(80, 0)] = false := by decide

/-! ## Decoding: one word a constructor, written out from the opcode map (R82, R84), with the row's mask and bits -/

theorem test_decode_00E0 : decode 0x00E0 = .ok (.op00E0) ∧ (0x00E0 : Word) &&& 0xFFFF = 0x00E0 := by decide
theorem test_decode_00EE : decode 0x00EE = .ok (.op00EE) ∧ (0x00EE : Word) &&& 0xFFFF = 0x00EE := by decide
theorem test_decode_1NNN : decode 0x1ABC = .ok (.op1NNN 0xABC) ∧ (0x1ABC : Word) &&& 0xF000 = 0x1000 := by decide
theorem test_decode_2NNN : decode 0x2FED = .ok (.op2NNN 0xFED) ∧ (0x2FED : Word) &&& 0xF000 = 0x2000 := by decide
theorem test_decode_3XNN : decode 0x3A05 = .ok (.op3XNN 0xA 0x05) ∧ (0x3A05 : Word) &&& 0xF000 = 0x3000 := by decide
theorem test_decode_4XNN : decode 0x4BC7 = .ok (.op4XNN 0xB 0xC7) ∧ (0x4BC7 : Word) &&& 0xF000 = 0x4000 := by decide
theorem test_decode_5XY0 : decode 0x5120 = .ok (.op5XY0 0x1 0x2) ∧ (0x5120 : Word) &&& 0xF00F = 0x5000 := by decide
theorem test_decode_6XNN : decode 0x6A05 = .ok (.op6XNN 0xA 0x05) ∧ (0x6A05 : Word) &&& 0xF000 = 0x6000 := by decide
theorem test_decode_7XNN : decode 0x7A02 = .ok (.op7XNN 0xA 0x02) ∧ (0x7A02 : Word) &&& 0xF000 = 0x7000 := by decide
theorem test_decode_8XY0 : decode 0x8120 = .ok (.op8XY0 0x1 0x2) ∧ (0x8120 : Word) &&& 0xF00F = 0x8000 := by decide
theorem test_decode_8XY1 : decode 0x8121 = .ok (.op8XY1 0x1 0x2) ∧ (0x8121 : Word) &&& 0xF00F = 0x8001 := by decide
theorem test_decode_8XY2 : decode 0x8122 = .ok (.op8XY2 0x1 0x2) ∧ (0x8122 : Word) &&& 0xF00F = 0x8002 := by decide
theorem test_decode_8XY3 : decode 0x8123 = .ok (.op8XY3 0x1 0x2) ∧ (0x8123 : Word) &&& 0xF00F = 0x8003 := by decide
theorem test_decode_8XY4 : decode 0x8124 = .ok (.op8XY4 0x1 0x2) ∧ (0x8124 : Word) &&& 0xF00F = 0x8004 := by decide
theorem test_decode_8XY5 : decode 0x8125 = .ok (.op8XY5 0x1 0x2) ∧ (0x8125 : Word) &&& 0xF00F = 0x8005 := by decide
theorem test_decode_8XY6 : decode 0x8126 = .ok (.op8XY6 0x1 0x2) ∧ (0x8126 : Word) &&& 0xF00F = 0x8006 := by decide
theorem test_decode_8XY7 : decode 0x8127 = .ok (.op8XY7 0x1 0x2) ∧ (0x8127 : Word) &&& 0xF00F = 0x8007 := by decide
theorem test_decode_8XYE : decode 0x812E = .ok (.op8XYE 0x1 0x2) ∧ (0x812E : Word) &&& 0xF00F = 0x800E := by decide
theorem test_decode_9XY0 : decode 0x9EF0 = .ok (.op9XY0 0xE 0xF) ∧ (0x9EF0 : Word) &&& 0xF00F = 0x9000 := by decide
theorem test_decode_ANNN : decode 0xA300 = .ok (.opANNN 0x300) ∧ (0xA300 : Word) &&& 0xF000 = 0xA000 := by decide
theorem test_decode_BNNN : decode 0xB123 = .ok (.opBNNN 0x123) ∧ (0xB123 : Word) &&& 0xF000 = 0xB000 := by decide
theorem test_decode_CXNN : decode 0xC10F = .ok (.opCXNN 0x1 0x0F) ∧ (0xC10F : Word) &&& 0xF000 = 0xC000 := by decide
theorem test_decode_DXYN : decode 0xD125 = .ok (.opDXYN 0x1 0x2 0x5) ∧ (0xD125 : Word) &&& 0xF000 = 0xD000 := by decide
theorem test_decode_EX9E : decode 0xE19E = .ok (.opEX9E 0x1) ∧ (0xE19E : Word) &&& 0xF0FF = 0xE09E := by decide
theorem test_decode_EXA1 : decode 0xE2A1 = .ok (.opEXA1 0x2) ∧ (0xE2A1 : Word) &&& 0xF0FF = 0xE0A1 := by decide
theorem test_decode_FX07 : decode 0xF107 = .ok (.opFX07 0x1) ∧ (0xF107 : Word) &&& 0xF0FF = 0xF007 := by decide
theorem test_decode_FX0A : decode 0xF20A = .ok (.opFX0A 0x2) ∧ (0xF20A : Word) &&& 0xF0FF = 0xF00A := by decide
theorem test_decode_FX15 : decode 0xF315 = .ok (.opFX15 0x3) ∧ (0xF315 : Word) &&& 0xF0FF = 0xF015 := by decide
theorem test_decode_FX18 : decode 0xF418 = .ok (.opFX18 0x4) ∧ (0xF418 : Word) &&& 0xF0FF = 0xF018 := by decide
theorem test_decode_FX1E : decode 0xF51E = .ok (.opFX1E 0x5) ∧ (0xF51E : Word) &&& 0xF0FF = 0xF01E := by decide
theorem test_decode_FX29 : decode 0xF629 = .ok (.opFX29 0x6) ∧ (0xF629 : Word) &&& 0xF0FF = 0xF029 := by decide
theorem test_decode_FX33 : decode 0xF733 = .ok (.opFX33 0x7) ∧ (0xF733 : Word) &&& 0xF0FF = 0xF033 := by decide
theorem test_decode_FX55 : decode 0xF855 = .ok (.opFX55 0x8) ∧ (0xF855 : Word) &&& 0xF0FF = 0xF055 := by decide
theorem test_decode_FX65 : decode 0xF965 = .ok (.opFX65 0x9) ∧ (0xF965 : Word) &&& 0xF0FF = 0xF065 := by decide

/-- The valid words the spec calls odd-looking. -/
theorem test_decode_odd_words : decode 0xE09E = .ok (.opEX9E 0) ∧ decode 0xF065 = .ok (.opFX65 0) ∧
    decode 0x8FFE = .ok (.op8XYE 15 15) ∧ decode 0xD000 = .ok (.opDXYN 0 0 0) ∧ decode 0x1000 = .ok (.op1NNN 0) ∧
    decode 0x5000 = .ok (.op5XY0 0 0) := by decide

/-- The unknown words K1 to K5. -/
theorem test_decode_unknown_K1_K2 : [0x0000, 0x0123, 0x00E1, 0x00EF, 0x01E0, 0x0FFF, 0x5121, 0x512F, 0x9121, 0x912E].all unknown = true := by decide
theorem test_decode_unknown_K3_K4 : [0x8128, 0x8129, 0x812D, 0x812F, 0xE000, 0xE19F, 0xE1A0, 0xE1FF].all unknown = true := by decide
theorem test_decode_unknown_K5 : [0xF000, 0xF108, 0xF154, 0xF166, 0xF1FF, 0xFFFF].all unknown = true := by decide

/-- A word comes high byte first, and the rest of the bytes is left (R56, R89). -/
theorem test_decode_bytes : decodeBytes [0x6A, 0x05, 0x7A] = .ok (.op6XNN 0xA 0x05, [0x7A]) ∧
    decodeBytes [0x6A] = .error .truncated := by decide

theorem test_decodeTableWord : decodeTableWord 16 0xD125 = some (.opDXYN 1 2 5) ∧ decodeTableWord 16 0x5121 = none := by
  decide

theorem test_encode_words : encode (.op8XYE 0x1 0x2) = 0x812E ∧ encode (.opFX65 0x9) = 0xF965 ∧
    encode (.op2NNN 0x300) = 0x2300 ∧ encode (.op00EE) = 0x00EE := by decide

/-- The aliases of the opcode map (R84). -/
theorem test_listing : listing (.opDXYN 0x1 0x2 0x5) = "DRW V1, V2, 5" ∧ listing (.opFX55 0x1) = "LD [I], V1" ∧
    listing (.op6XNN 0xA 0x0A) = "LD VA, 0x0A" := by decide +kernel

/-! ## Fetch and program counter (F, E, K vectors) -/

theorem test_step_F1 : next (stepOn (atPc State.reset 0x0FFE) 0x6011) (fun t => t.reg 0 == 0x11 && t.pc == 0x1000) = true := by decide +kernel
theorem test_step_F2 : faults (stepOn (atPc State.reset 0x0FFF) 0x6011) .outOfBounds = true := by decide +kernel
theorem test_step_F4 : faults (stepOn (atPc State.reset 0xFFFF) 0x6011) .outOfBounds = true := by decide +kernel
theorem test_step_F5 : next (stepOn (atPc State.reset 0x0201) 0x6122) (fun t => t.reg 1 == 0x22 && t.pc == 0x0203) = true := by decide +kernel
theorem test_step_E2 : faults (stepOn (depth State.reset 16 (Vector.replicate 16 0)) 0x0000) .unknownOpcode = true := by decide +kernel
theorem test_reset_first_word_is_unknown : faults (step State.reset) .unknownOpcode = true := by decide +kernel

/-! ## Vectors, at most two an instruction -/

theorem test_00E0_G14 : next (stepOn (lit (regs [(15, 1)]) [0, 100, 2047]) 0x00E0) (fun t => litCount t == 0 && t.reg 15 == 1 && t.pc == 0x0202 && t.reply.dirty) = true := by decide +kernel
theorem test_00EE_T9 : next (stepOn (atPc (depth State.reset 16 (Vector.replicate 16 0x0ABC)) 0x300) 0x00EE) (fun t => t.pc == 0x0ABC && t.sp == 15) = true := by decide +kernel
theorem test_00EE_T10 : faults (stepOn (State.reset) 0x00EE) .stackUnderflow = true := by decide +kernel
theorem test_1NNN_T1 : next (stepOn (State.reset) 0x1ABC) (fun t => t.pc == 0x0ABC && !t.reply.dirty) = true := by decide +kernel
theorem test_2NNN_T5 : next (stepOn (depth State.reset 15 (Vector.replicate 16 0)) 0x2300) (fun t => t.stk[15] == 0x0202 && t.sp == 16 && t.pc == 0x0300) = true := by decide +kernel
theorem test_2NNN_T6 : faults (stepOn (depth State.reset 16 (Vector.replicate 16 0)) 0x2300) .stackOverflow = true := by decide +kernel
theorem test_3XNN_Q1 : next (stepOn (regs [(10, 5)]) 0x3A05) (fun t => t.pc == 0x0204) = true := by decide +kernel
theorem test_3XNN_Q2 : next (stepOn (regs [(10, 6)]) 0x3A05) (fun t => t.pc == 0x0202) = true := by decide +kernel
theorem test_4XNN_Q3 : next (stepOn (regs [(10, 5)]) 0x4A05) (fun t => t.pc == 0x0202) = true := by decide +kernel
theorem test_4XNN_Q4 : next (stepOn (regs [(10, 6)]) 0x4A05) (fun t => t.pc == 0x0204) = true := by decide +kernel
theorem test_5XY0_Q5 : next (stepOn (regs [(1, 9), (2, 9)]) 0x5120) (fun t => t.pc == 0x0204) = true := by decide +kernel
theorem test_5XY0_Q6 : next (stepOn (regs [(1, 9), (2, 8)]) 0x5120) (fun t => t.pc == 0x0202) = true := by decide +kernel
theorem test_6XNN_S1 : next (stepOn (State.reset) 0x6A05) (fun t => t.reg 10 == 5 && t.reg 15 == 0 && t.pc == 0x0202) = true := by decide +kernel
theorem test_7XNN_A3 : next (stepOn (regs [(1, 0xFF), (15, 9)]) 0x7102) (fun t => t.reg 1 == 1 && t.reg 15 == 9) = true := by decide +kernel
theorem test_8XY0_A27 : next (stepOn (regs [(2, 0x33)]) 0x8120) (fun t => t.reg 1 == 0x33 && t.reg 2 == 0x33) = true := by decide +kernel
theorem test_8XY1_A28 : next (stepOn (regs [(1, 0xF0), (2, 0x0F), (15, 7)]) 0x8121) (fun t => t.reg 1 == 0xFF && t.reg 15 == 7) = true := by decide +kernel
theorem test_8XY2_A29 : next (stepOn (regs [(1, 0xF0), (2, 0x3C)]) 0x8122) (fun t => t.reg 1 == 0x30) = true := by decide +kernel
theorem test_8XY3_A30 : next (stepOn (regs [(1, 0xF0), (2, 0x3C)]) 0x8123) (fun t => t.reg 1 == 0xCC) = true := by decide +kernel
theorem test_8XY4_A4 : next (stepOn (regs [(1, 200), (2, 55)]) 0x8124) (fun t => t.reg 1 == 255 && t.reg 15 == 0) = true := by decide +kernel
theorem test_8XY4_A8 : next (stepOn (regs [(1, 250), (15, 10)]) 0x81F4) (fun t => t.reg 1 == 4 && t.reg 15 == 1) = true := by decide +kernel
theorem test_8XY5_A10 : next (stepOn (regs [(1, 7), (2, 7)]) 0x8125) (fun t => t.reg 1 == 0 && t.reg 15 == 1) = true := by decide +kernel
theorem test_8XY5_A13 : next (stepOn (regs [(15, 3), (1, 5)]) 0x8F15) (fun t => t.reg 15 == 0) = true := by decide +kernel
theorem test_8XY6_A17 : next (stepOn (regs [(15, 2)]) 0x8F06) (fun t => t.reg 15 == 0) = true := by decide +kernel
theorem test_8XY6_A18 : next (stepOn (regs [(1, 0x80), (10, 0xFF)]) 0x81A6) (fun t => t.reg 1 == 0x40 && t.reg 15 == 0 && t.reg 10 == 0xFF) = true := by decide +kernel
theorem test_8XY7_A19 : next (stepOn (regs [(1, 5), (2, 7)]) 0x8127) (fun t => t.reg 1 == 0xFE && t.reg 15 == 0) = true := by decide +kernel
theorem test_8XY7_A21 : next (stepOn (regs [(1, 7), (2, 7)]) 0x8127) (fun t => t.reg 1 == 0 && t.reg 15 == 1) = true := by decide +kernel
theorem test_8XYE_A22 : next (stepOn (regs [(1, 0x81)]) 0x811E) (fun t => t.reg 1 == 0x02 && t.reg 15 == 1) = true := by decide +kernel
theorem test_8XYE_A25 : next (stepOn (regs [(15, 0xC0)]) 0x8F0E) (fun t => t.reg 15 == 1) = true := by decide +kernel
theorem test_9XY0_Q8 : next (stepOn (regs [(1, 9), (2, 9)]) 0x9120) (fun t => t.pc == 0x0202) = true := by decide +kernel
theorem test_9XY0_Q9 : next (stepOn (regs [(1, 9), (2, 8)]) 0x9120) (fun t => t.pc == 0x0204) = true := by decide +kernel
theorem test_ANNN_M1 : next (stepOn (State.reset) 0xA300) (fun t => t.i == 0x0300 && t.pc == 0x0202) = true := by decide +kernel
theorem test_BNNN_T12 : next (stepOn (regs [(0, 0xFF)]) 0xBFFF) (fun t => t.pc == 0x10FE) = true := by decide +kernel
theorem test_CXNN_A32 : next (randomInto 0xA7 1 0x0F State.reset) (fun t => t.reg 1 == 0x07 && t.draws == 1 && t.pc == 0x0202) = true := by decide +kernel
theorem test_CXNN_A34 : next (randomInto 0x80 15 0xFF State.reset) (fun t => t.reg 15 == 0x80) = true := by decide +kernel
theorem test_DXYN_G3 : next (stepOn ((withBytes (regs [(0, 0), (1, 31)]) 0x300 [0x80, 0x01]).setI 0x300) 0xD012) (fun t => cell t 31 0 && cell t 0 7 && litCount t == 2 && t.reg 15 == 0 && t.reply.dirty) = true := by decide +kernel
theorem test_DXYN_G5 : next (stepOn ((withBytes (lit (regs [(0, 0)]) [0]) 0x300 [0xC0]).setI 0x300) 0xD011) (fun t => cell t 0 1 && litCount t == 1 && t.reg 15 == 1) = true := by decide +kernel
theorem witness_Draw_beyond_G9 : faults (stepOn (State.reset.setI 4095) 0xD012) .outOfBounds = true := by decide +kernel
theorem test_EX9E_Q13 : next (stepOn (holding (regs [(1, 0x17)]) [7]) 0xE19E) (fun t => t.pc == 0x0204) = true := by decide +kernel
theorem test_EX9E_Q12 : next (stepOn (holding (regs [(1, 7)]) [6]) 0xE19E) (fun t => t.pc == 0x0202) = true := by decide +kernel
theorem test_EXA1_Q15 : next (stepOn (regs [(1, 7)]) 0xE1A1) (fun t => t.pc == 0x0204) = true := by decide +kernel
theorem test_EXA1_Q16 : next (stepOn (holding (regs [(1, 0xF7)]) [7]) 0xE1A1) (fun t => t.pc == 0x0202) = true := by decide +kernel
theorem test_FX07_W1 : next (stepOn (State.reset.setDT 0x2A) 0xF107) (fun t => t.reg 1 == 0x2A && t.dt == 0x2A) = true := by decide +kernel
theorem test_FX0A_W8 : next (stepOn (regs [(3, 9)]) 0xF30A) (fun t => t.await && t.awaitX == 3 && t.pc == 0x0200 && t.reg 3 == 9) = true := by decide +kernel
theorem test_FX0A_W12 : next (stepOn (holding (regs [(3, 9)]) [15]) 0xF30A) (fun t => t.reg 3 == 0x0F && t.pc == 0x0202 && !t.await) = true := by decide +kernel
theorem test_FX15_W2 : next (stepOn (regs [(1, 0x3C)]) 0xF115) (fun t => t.dt == 60 && t.st == 0) = true := by decide +kernel
theorem test_FX18_W3 : next (stepOn (regs [(1, 2)]) 0xF118) (fun t => t.st == 2 && t.dt == 0 && !t.reply.beep) = true := by decide +kernel
theorem test_FX1E_M3 : next (stepOn ((regs [(2, 1), (15, 5)]).setI 0x0FFF) 0xF21E) (fun t => t.i == 0x1000 && t.reg 15 == 5) = true := by decide +kernel
theorem test_FX1E_M4 : next (stepOn ((regs [(2, 2)]).setI 0xFFFF) 0xF21E) (fun t => t.i == 0x0001) = true := by decide +kernel
theorem test_FX29_M6 : next (stepOn (regs [(10, 0x3A)]) 0xFA29) (fun t => t.i == 0x0032) = true := by decide +kernel
theorem test_FX33_M7 : next (stepOn ((regs [(0, 254)]).setI 0x300) 0xF033) (fun t => t.bytesAt 0x300 3 == [2, 5, 4] && t.i == 0x300 && t.reg 0 == 254) = true := by decide +kernel
theorem test_FX33_M10 : faults (stepOn ((regs [(0, 255)]).setI 4094) 0xF033) .outOfBounds = true := by decide +kernel
theorem test_FX55_M13 : next (stepOn ((regs [(0, 0x11), (1, 0x22), (2, 0x33)]).setI 0x400) 0xF155) (fun t => t.bytesAt 0x400 3 == [0x11, 0x22, 0] && t.i == 0x400) = true := by decide +kernel
theorem test_FX55_M15 : faults (stepOn ((regs [(0, 0x11), (1, 0x22)]).setI 4095) 0xF155) .outOfBounds = true := by decide +kernel
theorem test_FX65_M18 : next (stepOn ((withBytes (regs [(3, 9)]) 0x300 [2, 5, 4, 7]).setI 0x300) 0xF265) (fun t => t.reg 0 == 2 && t.reg 1 == 5 && t.reg 2 == 4 && t.reg 3 == 9) = true := by decide +kernel
theorem test_FX65_M22 : faults (stepOn (State.reset.setI 0x1000) 0xF065) .outOfBounds = true := by decide +kernel

/-! ## The key wait, `Tick`, `LoadProgram`, `Reset`, the read port, the driver's view -/

/-- The state of vector W8. -/
def awaiting : State := (withBytes (regs [(3, 9)]) 0x200 [0xF3, 0x0A]).setAwait true 3

theorem test_await_W9 : next (perform (.step (keysDown [])) awaiting) (fun t => t.await && t.pc == 0x0200 && t.reg 3 == 9) = true := by decide +kernel
theorem test_await_W11 : next (perform (.step (keysDown [2, 5])) awaiting) (fun t => !t.await && t.pc == 0x0202 && t.reg 3 == 2) = true := by decide +kernel
theorem test_tick_W5 : next (perform .tick ((State.reset.setDT 1).setST 1)) (fun t => t.dt == 0 && t.st == 0 && t.reply.beep) = true := by decide +kernel
theorem test_tick_W7 : next (perform .tick ((State.reset.setDT 0).setST 255)) (fun t => t.dt == 0 && t.st == 254 && !t.reply.beep) = true := by decide +kernel
theorem test_load_L5 : next (perform (.loadProgram [1, 2, 3]) (withBytes State.reset 0x200 (image 5 0xAA)))
    (fun t => t.bytesAt 0x200 5 == [1, 2, 3, 0xAA, 0xAA] && t.pc == 0x200) = true := by decide +kernel
theorem test_load_S4 : next (perform (.loadProgram (image 3585 0xBB)) State.reset)
    (fun t => t.reply.err == .programTooLarge && t.byteAt 0x200 == 0) = true := by decide +kernel
theorem test_reset_W14 : next (perform .reset awaiting)
    (fun t => !t.await && t.pc == 0x200 && t.reg 3 == 0 && t.bytesAt 78 3 == [0x80, 0x80, 0]) = true := by decide +kernel
/-- The glyph of A, of the default font (P3). -/
theorem test_font_glyph : State.reset.bytesAt 50 5 = [0xF0, 0x90, 0xF0, 0x90, 0x90] := by decide
/-- `Reset` writes the machine's own font, whichever it is. -/
theorem test_reset_other_font : next (perform .reset { State.reset with font := Vector.replicate 80 0x11 })
    (fun t => t.bytesAt 78 3 == [0x11, 0x11, 0] && t.font == Vector.replicate 80 0x11) = true := by decide +kernel
theorem test_before_reset_L7 : perform .tick { State.reset with resetDone := false } = .refused .beforeReset := rfl
theorem test_readCell : next (perform (.readCell 65) (lit State.reset [65])) (fun t => t.reply.cell) = true := by decide +kernel
theorem test_respond_E5 : (respond (.step (keysDown [])) State.reset).reply.err = .unknownOpcode ∧
    (respond (.step (keysDown [])) State.reset).pc = 0x200 := by decide +kernel
theorem test_err_codes : [Err.none, .outOfBounds, .stackOverflow, .stackUnderflow, .unknownOpcode, .programTooLarge].map Err.code
    = [0, 1, 2, 3, 4, 5] := by decide
theorem test_schedule : next (step (State.reset.setSchedule [.tick])) (fun t => t.schedule == [] && t.pc == 0x200) = true := by decide +kernel

/-! ## Witnesses: the hypotheses of every obligation can be met, each clause at the ends of its range -/

/-- The state of P4 after a call: one entry live. -/
def called : State := depth State.reset 1 (Vector.replicate 16 0x0202)

/-- A jump to self at 0x200 (T2). -/
def jumping : State := State.reset.withFetchWord 16 0x1200

theorem witness_EncodeOfDecodeIsTheWord : decode 0x6A05 = .ok (.op6XNN 0xA 0x05) := by decide
theorem witness_EveryWord_selected : ∃ r ∈ opcodeMap, r.selects 0x8126 = true := by decide
theorem witness_EveryWord_unselected : ∀ r ∈ opcodeMap, r.selects 0x0000 = false := by decide
theorem witness_StepRuns_empty_schedule : jumping.resetDone = true ∧ jumping.await = false ∧ jumping.pc.toNat ≤ 0xFFE ∧
    decode (wordOfBytes (jumping.byteAt jumping.pc.toNat) (jumping.byteAt (jumping.pc.toNat + 1))) = .ok (.op1NNN 0x200) ∧
    jumping.schedule = [] := by decide +kernel
theorem witness_StepRuns_scheduled : ((atPc State.reset 0xFFE).setSchedule [.step (keysDown [1]), .tick]).withFetchWord 16 0x1200
    |> fun s => s.resetDone = true ∧ s.await = false ∧ s.pc.toNat ≤ 0xFFE ∧
      decode (wordOfBytes (s.byteAt s.pc.toNat) (s.byteAt (s.pc.toNat + 1))) = .ok (.op1NNN 0x200) ∧
      s.schedule = .step (keysDown [1]) :: [.tick] := by decide +kernel
theorem witness_Fetch_last : (atPc State.reset 0xFFE).pc.toNat ≤ 0xFFE := by decide
theorem witness_Fetch_beyond : (atPc State.reset 0xFFF).pc.toNat > 0xFFE := by decide
theorem witness_StepTakes : (State.reset.setSchedule [.tick]).schedule = .tick :: [] ∧ State.reset.schedule = [] := by decide
theorem witness_Errors_fetch : perform (.step (keysDown [])) (atPc State.reset 0xFFF) = .fault .outOfBounds :=
  eq_fault_of_faults (by decide +kernel)
theorem witness_Errors_unknown : perform (.step (keysDown [])) State.reset = .fault .unknownOpcode :=
  eq_fault_of_faults (by decide +kernel)
theorem witness_Errors_own : ownError .op00EE State.reset = some .stackUnderflow ∧
    perform (.step (keysDown [])) (State.reset.withFetchWord 16 0x00EE) = .fault .stackUnderflow :=
  ⟨by decide, eq_fault_of_faults (by decide +kernel)⟩
theorem witness_Errors_load : State.reset.resetDone = true ∧ (image 0xE00 1).length ≤ 0xE00 ∧ (image 0xE01 1).length > 0xE00 := by decide +kernel
theorem witness_AnError : perform (.step (keysDown [3])) State.reset = .fault .unknownOpcode ∧ (image 0xE01 1).length > 0xE00 :=
  ⟨eq_fault_of_faults (by decide +kernel), by decide +kernel⟩
theorem witness_ARepeatedStep : perform (.step (keysDown [3])) (State.reset.withFetchWord 16 0x00EE) = .fault .stackUnderflow :=
  eq_fault_of_faults (by decide +kernel)
theorem witness_BeforeTheFirstReset : ({ State.reset with resetDone := false } : State).resetDone = false ∧ Command.tick ≠ .reset := by decide
theorem witness_Awaiting_key : awaiting.resetDone = true ∧ awaiting.await = true ∧ (keysDown [2, 5])[(2 : Fin 16)] = true ∧
    ∀ j : Fin 16, j < 2 → (keysDown [2, 5])[j] = false := by decide +kernel
theorem witness_Awaiting_last_key : (keysDown [15])[(15 : Fin 16)] = true ∧ ∀ j : Fin 16, j < 15 → (keysDown [15])[j] = false := by decide +kernel
theorem witness_Awaiting_no_key : ∀ j : Fin 16, (keysDown [])[j] = false := by decide +kernel
theorem witness_awaiting_fetches : awaiting.fetch = .ok 0xF30A ∧ decode 0xF30A = .ok (.opFX0A awaiting.awaitX) := by decide +kernel
theorem witness_AwaitingEqualsReexecution : awaiting.resetDone = true ∧ awaiting.await = true ∧ awaiting.AwaitsItsFX0A :=
  ⟨rfl, rfl, fun _ => ⟨0xF30A, witness_awaiting_fetches⟩⟩
theorem witness_PcFollows_and_frames : next (exec (.op8XY4 1 2) State.reset) (fun _ => true) = true := by decide +kernel
theorem witness_Flag_left_alone : writesFlag (.op6XNN 1 0) = false ∧ vf ∉ destinations (.op6XNN 1 0) ∧ writesFlag (.op8XY4 1 2) = true := by decide
theorem witness_Frame_other_register : (2 : Reg) ∉ destinations (.opFX65 1) ∧ (1 : Reg) ∈ destinations (.opFX65 1) ∧ storedLength (.opFX55 15) = 16 := by decide
theorem witness_Flag_FX65 : vf ∉ destinations (.opFX65 14) ∧ vf ∈ destinations (.opFX65 15) := by decide
theorem witness_StepKeepsTheInvariant : jumping.Inv ∧ next (step jumping) (fun _ => true) = true :=
  ⟨⟨by decide +kernel, by decide +kernel⟩, by decide +kernel⟩
theorem witness_StepKeepsThePendingKeyWait : awaiting.AwaitsItsFX0A ∧ awaiting.nextCommand = .step (keysDown []) ∧
    next (step awaiting) (fun t => t.await) = true :=
  ⟨witness_AwaitingEqualsReexecution.2.2, by decide +kernel, by decide +kernel⟩
theorem witness_Reset_font_ends : State.reset.byteAt 79 = 0x80 ∧ State.reset.byteAt 80 = 0 ∧ State.reset.font = fontset := by decide
theorem witness_TheFont_step : next (step jumping) (fun _ => true) = true := by decide +kernel
theorem witness_Dirty_draw : next (perform (.step (keysDown [])) (State.reset.withFetchWord 16 0xD000)) (fun t => t.reply.dirty) = true := by decide +kernel
theorem witness_Dirty_none : next (perform (.step (keysDown [])) jumping) (fun t => !t.reply.dirty) = true := by decide +kernel
theorem witness_Tick_step_runs : next (perform (.step (keysDown [])) (State.reset.withFetchWord 16 0xF115)) (fun _ => true) = true := by decide +kernel
theorem witness_Beep_last : (drive (List.replicate 2 .tick) (State.reset.setST 2)).reply.beep = true ∧ (State.reset.setST 2).st.toNat = 2 := by decide +kernel
theorem witness_JumpToSelf : jumping.resetDone = true ∧ jumping.schedule = [] ∧ jumping.await = false ∧
    jumping.fetch = .ok (0x1000#16 + jumping.pc) := by decide +kernel
theorem witness_AStoredWord : 1 ≤ (1 : Reg).toNat ∧ (State.reset.setI 0x202).i = (State.reset.setI 0x202).pc + 2 ∧
    (State.reset.setI 0x202).i.toNat + (1 : Reg).toNat ≤ 4095 := by decide
theorem witness_AStoredWord_at_the_end : ((atPc State.reset 0xFFC).setI 0xFFE).i = ((atPc State.reset 0xFFC).setI 0xFFE).pc + 2 ∧
    ((atPc State.reset 0xFFC).setI 0xFFE).i.toNat + (1 : Reg).toNat = 4095 := by decide
/-- M12: `FX33` over its own word and one byte of the next: the next fetch reads 0x0700. -/
theorem witness_AStoredWord_M12 : ((regs [(1, 107)]).setI 0x200).base + 2 ≤ 4095 ∧
    next (exec (.opFX33 1) ((regs [(1, 107)]).setI 0x200)) (fun t => match t.fetch with
      | .ok w    => w == 0x0700
      | .error _ => false) = true := by decide +kernel
theorem witness_AStoredWord_last_fetch : (atPc State.reset 0xFFC).pc + 2 = 0xFFE := by decide
theorem witness_NoInstructionReads : next (exec (.opFX18 1) State.reset) (fun _ => true) = true ∧
    exec .op00EE State.reset = .fault .stackUnderflow :=
  ⟨by decide +kernel, eq_fault_of_faults (by decide +kernel)⟩
theorem witness_DeadStack : ∀ k : Fin 16, k.val < called.sp.val → (called.stk.set 5 0x0ABC)[k] = called.stk[k] := by decide +kernel
theorem witness_DeadStack_runs : next (exec .op00EE called) (fun t => t.pc == 0x202) = true := by decide +kernel
theorem witness_Return_empty : State.reset.sp.val = 0 := by decide
theorem witness_Return_live : called.sp.val ≠ 0 := by decide
theorem witness_Call_full : (depth State.reset 16 (Vector.replicate 16 0)).sp.val = 16 := by decide
theorem witness_Call_room : (depth State.reset 15 (Vector.replicate 16 0)).sp.val ≠ 16 := by decide
theorem sameProgramState_refl (t : State) : SameProgramState t t := by
  intro p _
  cases p <;> simp [Part.same]
theorem sameProgramState_tick (t : State) : SameProgramState t t.tick := by
  intro p hp
  cases p <;> simp_all [Part.same, State.tick]
theorem witness_CallThenReturn : ∃ t, exec (.op2NNN 0x300) State.reset = .next t ∧ SameProgramState t t.tick :=
  ⟨_, rfl, sameProgramState_tick _⟩
theorem witness_SkipsTestingAKey : (7 : Fin 16).val = ((regs [(1, 0x17)]).reg 1).toNat % 16 := by decide
theorem witness_arithmetic_other_register : (1 : Reg) ≠ vf ∧ (0xE : Reg) ≠ vf := by decide
theorem witness_Bcd_last : (State.reset.setI 4093).base + 2 ≤ 4095 := by decide
theorem witness_Bcd_beyond : (State.reset.setI 4094).base + 2 > 4095 := by decide
theorem witness_Block_last : (State.reset.setI 4080).base + (15 : Reg).toNat ≤ 4095 := by decide
theorem witness_Block_beyond : (State.reset.setI 4081).base + (15 : Reg).toNat > 4095 := by decide
theorem witness_DumpThenReload : next (exec (.opFX55 2) (State.reset.setI 0x400)) (fun _ => true) = true ∧
    ∀ t, SameProgramState t t.tick := ⟨by decide +kernel, sameProgramState_tick⟩
theorem witness_Draw_last : (1 : Nibble).toNat = 0 ∨ (State.reset.setI 4095).i.toNat + (1 : Nibble).toNat - 1 ≤ 4095 := by decide
theorem witness_Draw_nothing : (0 : Nibble).toNat = 0 ∨ (State.reset.setI 0xFFFF).i.toNat + (0 : Nibble).toNat - 1 ≤ 4095 := by decide
theorem witness_Draw_beyond : (2 : Nibble).toNat > 0 ∧ (State.reset.setI 4095).i.toNat + (2 : Nibble).toNat - 1 > 4095 := by decide
theorem witness_DrawingTwice : (1 : Reg) ≠ vf ∧ (2 : Reg) ≠ vf ∧ next (exec (.opDXYN 1 2 5) State.reset) (fun t => litCount t == 14) = true ∧
    ∀ t, SameProgramState t t := ⟨by decide, by decide, by decide +kernel, sameProgramState_refl⟩
theorem witness_KeyWait_key : (holding State.reset [0, 4]).keys[(0 : Fin 16)] = true ∧
    ∀ j : Fin 16, j < 0 → (holding State.reset [0, 4]).keys[j] = false := by decide +kernel
theorem witness_KeyWait_no_key : ∀ k : Fin 16, State.reset.keys[k] = false := by decide +kernel

end Sys2Proof.Tests
end

section
/-! Family 00_scope: the command port and the frame of the operations (O8, O23, O28). -/

namespace Sys2Proof.Machine

/-! ## The driver's next command -/

@[simp] theorem State.setSchedule_self (s : State) : s.setSchedule s.schedule = s := rfl

/-- A step takes the oldest command out of the schedule and performs it on the rest (R8, R9). -/
theorem step_of_schedule_cons {s : State} {c : Command} {cs : List Command} (h : s.schedule = c :: cs) :
    step s = perform c (s.setSchedule cs) := by
  have hc : s.nextCommand = c := by rw [State.nextCommand, h]
  have ht : s.takeCommand = s.setSchedule cs := by rw [State.takeCommand, h, List.tail_cons]
  rw [step, runNext, hc, ht]

/-- With nothing scheduled a step is `Step` with the keys as they are (D29). -/
theorem step_of_schedule_nil {s : State} (h : s.schedule = []) : step s = perform (.step s.keys) s := by
  have hc : s.nextCommand = .step s.keys := by rw [State.nextCommand, h]
  have ht : s.takeCommand = s := by
    have htail : s.schedule.tail = s.schedule := by rw [h, List.tail_nil]
    rw [State.takeCommand, htail, State.setSchedule_self]
  rw [step, runNext, hc, ht]

/-- Settles O8: the two shapes of the schedule. -/
theorem stepTakesTheNextCommand : Obligations.StepTakesTheNextCommand :=
  ⟨fun _ _ _ => step_of_schedule_cons, fun _ => step_of_schedule_nil⟩

/-! ## The framebuffer read port -/

theorem perform_readCell {s : State} (h : s.resetDone = true) (c : Fin 2048) :
    perform (.readCell c) s = .next (s.readCell c) := by
  rw [perform, if_pos h]

theorem State.setReply_changesOnly (s : State) (r : Reply) : ChangesOnly [.reply] s (s.setReply r) := by
  intro p hp
  cases p with
  | reply => exact absurd (List.mem_singleton_self _) hp
  | _ => simp [Part.same]

/-- Settles O28: the read port sets the reply and nothing else. -/
theorem framebufferReadIsNonDestructive : Obligations.FramebufferReadIsNonDestructive := by
  intro s c hreset
  exact ⟨s.readCell c, perform_readCell hreset c, rfl, s.setReply_changesOnly _⟩

/-! ## What an instruction that completes leaves, for those that can fail or wait

Every other instruction is an update and a commit with no branch, so that `exec` of it reduces to its outcome. -/

theorem exec00EE_next {s t : State} (h : exec00EE s = .next t) :
    ∃ target u, s.pop = .ok (target, u) ∧ t = u.retire target false := by
  unfold exec00EE at h
  split at h
  · next target u hpop => exact ⟨target, u, hpop, (Host.Outcome.next.inj h).symm⟩
  · cases h

theorem exec2NNN_next {nnn : Addr12} {s t : State} (h : exec2NNN nnn s = .next t) :
    ∃ u, s.push (s.pc + 2) = .ok u ∧ t = u.retire (zext12 nnn) false := by
  unfold exec2NNN at h
  split at h
  · next u hpush => exact ⟨u, hpush, (Host.Outcome.next.inj h).symm⟩
  · cases h

theorem execDXYN_next {x y : Reg} {n : Nibble} {s t : State} (h : execDXYN x y n s = .next t) :
    ∃ sprite, s.loadBytes s.base n.toNat = .ok sprite ∧
      t = ((s.setFb (drawSprite (s.fb, false) (s.reg x).toNat (s.reg y).toNat sprite).1).setFlag
        (drawSprite (s.fb, false) (s.reg x).toNat (s.reg y).toNat sprite).2).retire (s.pc + 2) true := by
  unfold execDXYN at h
  split at h
  · next sprite hload => exact ⟨sprite, hload, (Host.Outcome.next.inj h).symm⟩
  · cases h

/-- `FX0A` completes with the least key down, or begins to wait (R161). -/
theorem execFX0A_next {x : Reg} {s t : State} (h : execFX0A x s = .next t) :
    (∃ k, leastKey s.keys = some k ∧ t = (s.setReg x (keyByte k)).retire (s.pc + 2) false) ∨
    (leastKey s.keys = none ∧ t = (s.setAwait true x).retire s.pc false) := by
  unfold execFX0A at h
  split at h
  · next k hk => exact .inl ⟨k, hk, (Host.Outcome.next.inj h).symm⟩
  · next hk => exact .inr ⟨hk, (Host.Outcome.next.inj h).symm⟩

theorem execFX33_next {x : Reg} {s t : State} (h : execFX33 x s = .next t) :
    ∃ u, s.storeBytes s.base (bcdDigits (s.reg x)) = .ok u ∧ t = u.retire (u.pc + 2) false := by
  unfold execFX33 at h
  split at h
  · next u hstore => exact ⟨u, hstore, (Host.Outcome.next.inj h).symm⟩
  · cases h

theorem execFX55_next {x : Reg} {s t : State} (h : execFX55 x s = .next t) :
    ∃ u, s.storeBytes s.base (s.regsUpTo x) = .ok u ∧ t = u.retire (u.pc + 2) false := by
  unfold execFX55 at h
  split at h
  · next u hstore => exact ⟨u, hstore, (Host.Outcome.next.inj h).symm⟩
  · cases h

theorem execFX65_next {x : Reg} {s t : State} (h : execFX65 x s = .next t) :
    ∃ bs, s.loadBytes s.base (x.toNat + 1) = .ok bs ∧
      t = (s.setRegsFrom 0 bs).retire ((s.setRegsFrom 0 bs).pc + 2) false := by
  unfold execFX65 at h
  split at h
  · next bs hload => exact ⟨bs, hload, (Host.Outcome.next.inj h).symm⟩
  · cases h

/-- `Pop` that answers: the top entry, and one entry fewer (R27). -/
theorem State.pop_spec {s u : State} {w : Word} (h : s.pop = .ok (w, u)) :
    ∃ hlt : s.sp.val - 1 < 16, s.sp.val ≠ 0 ∧ w = s.stk[s.sp.val - 1] ∧
      u = s.setStack ⟨s.sp.val - 1, Nat.lt_succ_of_lt hlt⟩ s.stk := by
  by_cases hsp : s.sp.val = 0
  · rw [State.pop_empty s hsp] at h
    cases h
  · obtain ⟨hlt, hpop⟩ := State.pop_live s hsp
    obtain ⟨hw, hu⟩ := Prod.mk.inj (Except.ok.inj (hpop.symm.trans h))
    exact ⟨hlt, hsp, hw.symm, hu.symm⟩

/-! ## What no instruction touches -/

/-- The machine's parameter, its inputs and the driver's side of the state are the same in both states. -/
structure SameSetting (s t : State) : Prop where
  font      : t.font = s.font
  keys      : t.keys = s.keys
  schedule  : t.schedule = s.schedule
  resetDone : t.resetDone = s.resetDone

theorem SameSetting.setRegsFrom (s : State) (k : Nat) (bs : List Byte) : SameSetting s (s.setRegsFrom k bs) := by
  rw [State.setRegsFrom_eq]
  exact ⟨rfl, rfl, rfl, rfl⟩

/-- An instruction that completes leaves the font, the keys, the schedule and the reset flag as they were. The
instructions named are those with a branch; each of the others is one update and its commit. -/
theorem exec_sameSetting {i : Instr} {s t : State} (h : exec i s = .next t) : SameSetting s t := by
  cases i with
  | op00EE =>
    obtain ⟨_, _, hpop, rfl⟩ := exec00EE_next h
    obtain ⟨_, _, _, rfl⟩ := State.pop_spec hpop
    exact ⟨rfl, rfl, rfl, rfl⟩
  | op2NNN =>
    obtain ⟨_, hpush, rfl⟩ := exec2NNN_next h
    obtain ⟨_, rfl⟩ := State.push_spec hpush
    exact ⟨rfl, rfl, rfl, rfl⟩
  | opDXYN =>
    obtain ⟨_, _, rfl⟩ := execDXYN_next h
    exact ⟨rfl, rfl, rfl, rfl⟩
  | opFX0A =>
    obtain ⟨_, _, rfl⟩ | ⟨_, rfl⟩ := execFX0A_next h
    · exact ⟨rfl, rfl, rfl, rfl⟩
    · exact ⟨rfl, rfl, rfl, rfl⟩
  | opFX33 =>
    obtain ⟨_, hstore, rfl⟩ := execFX33_next h
    obtain ⟨_, rfl⟩ := State.storeBytes_spec hstore
    exact ⟨rfl, rfl, rfl, rfl⟩
  | opFX55 =>
    obtain ⟨_, hstore, rfl⟩ := execFX55_next h
    obtain ⟨_, rfl⟩ := State.storeBytes_spec hstore
    exact ⟨rfl, rfl, rfl, rfl⟩
  | opFX65 =>
    obtain ⟨bs, _, rfl⟩ := execFX65_next h
    obtain ⟨hfont, hkeys, hschedule, hreset⟩ := SameSetting.setRegsFrom s 0 bs
    exact ⟨hfont, hkeys, hschedule, hreset⟩
  | _ =>
    obtain rfl := Host.Outcome.next.inj h
    exact ⟨rfl, rfl, rfl, rfl⟩

theorem awaitKey_sameSetting {s t : State} (h : awaitKey s = .next t) : SameSetting s t := by
  obtain ⟨_, _, rfl⟩ | ⟨_, rfl⟩ := awaitKey_next h
  · exact ⟨rfl, rfl, rfl, rfl⟩
  · exact ⟨rfl, rfl, rfl, rfl⟩

/-- A `Step` that completes is an awaiting one or an instruction, and neither touches the setting. -/
theorem stepInstruction_sameSetting {s t : State} (h : stepInstruction s = .next t) : SameSetting s t := by
  obtain ⟨_, hawait⟩ | ⟨_, _, _, _, _, hexec⟩ := stepInstruction_next h
  · exact awaitKey_sameSetting hawait
  · exact exec_sameSetting hexec

/-! ## The font -/

@[simp] theorem State.doReset_font (s : State) : s.doReset.font = s.font := rfl
@[simp] theorem State.tick_font (s : State) : s.tick.font = s.font := rfl
@[simp] theorem State.readCell_font (s : State) (c : Fin 2048) : (s.readCell c).font = s.font := rfl

@[simp] theorem State.loadProgram_font (s : State) (image : List Byte) : (s.loadProgram image).font = s.font := by
  rcases Nat.lt_or_ge 0xE00 image.length with hlarge | hfits
  · rw [State.loadProgram_tooLarge s hlarge, State.setReply_font]
  · rw [State.loadProgram_fits s hfits, State.setReply_font, State.putBytes_font]

/-- Every command that answers keeps the machine's font (D20). -/
theorem perform_font {c : Command} {s t : State} (h : perform c s = .next t) : t.font = s.font := by
  obtain ⟨_, rfl⟩ | ⟨_, ⟨image, _, rfl⟩ | ⟨keys, _, hstep⟩ | ⟨_, rfl⟩ | ⟨cell, _, rfl⟩⟩ := perform_next h
  · exact s.doReset_font
  · exact s.loadProgram_font image
  · exact (stepInstruction_sameSetting hstep).font
  · exact s.tick_font
  · exact s.readCell_font cell

/-- Settles O23: a step is one command, and every command keeps the font. -/
theorem theFontParameterNeverChanges : Obligations.TheFontParameterNeverChanges := by
  intro s t h
  rw [step, runNext] at h
  exact (perform_font h).trans s.takeCommand_font

end Sys2Proof.Machine
end

section
/-! Family 10_state: the frame of every instruction, the invariants of R30, and what no instruction reads (O16 to O20, O22, O31, O32). -/

namespace Sys2Proof.Machine

/-! ## Composing frames -/

theorem Part.same_trans {s t u : State} {p : Part} (hst : Part.same s t p) (htu : Part.same t u p) :
    Part.same s u p := by
  cases p with
  | regs | stk | memory | display => exact fun k => (htu k).trans (hst k)
  | awaiting => exact ⟨htu.1.trans hst.1, htu.2.trans hst.2⟩
  | _ => exact Eq.trans htu hst

theorem ChangesOnly.refl (ps : List Part) (s : State) : ChangesOnly ps s s := by
  intro p _
  cases p <;> simp [Part.same]

theorem ChangesOnly.trans {ps : List Part} {s t u : State} (hst : ChangesOnly ps s t) (htu : ChangesOnly ps t u) :
    ChangesOnly ps s u :=
  fun p hp => Part.same_trans (hst p hp) (htu p hp)

theorem ChangesOnly.mono {ps qs : List Part} {s t : State} (h : ChangesOnly ps s t) (hsub : ps ⊆ qs) :
    ChangesOnly qs s t :=
  fun p hp => h p fun hmem => hp (hsub hmem)

/-! ## The frame of each update -/

theorem State.setReg_changesOnly (s : State) (x : Reg) (b : Byte) : ChangesOnly [.regs] s (s.setReg x b) := by
  intro p hp
  cases p <;> simp [Part.same] at hp ⊢

theorem State.setV_changesOnly (s : State) (w : Vector Byte 16) : ChangesOnly [.regs] s (s.setV w) := by
  intro p hp
  cases p <;> simp [Part.same] at hp ⊢

theorem State.setI_changesOnly (s : State) (w : Word) : ChangesOnly [.index] s (s.setI w) := by
  intro p hp
  cases p <;> simp [Part.same] at hp ⊢

theorem State.setDT_changesOnly (s : State) (b : Byte) : ChangesOnly [.delay] s (s.setDT b) := by
  intro p hp
  cases p <;> simp [Part.same] at hp ⊢

theorem State.setST_changesOnly (s : State) (b : Byte) : ChangesOnly [.sound] s (s.setST b) := by
  intro p hp
  cases p <;> simp [Part.same] at hp ⊢

theorem State.setAwait_changesOnly (s : State) (b : Bool) (x : Reg) : ChangesOnly [.awaiting] s (s.setAwait b x) := by
  intro p hp
  cases p <;> simp [Part.same] at hp ⊢

theorem State.setFb_changesOnly (s : State) (f : Framebuffer) : ChangesOnly [.display] s (s.setFb f) := by
  intro p hp
  cases p <;> simp [Part.same] at hp ⊢

theorem State.useDraw_changesOnly (s : State) : ChangesOnly [.draws] s s.useDraw := by
  intro p hp
  cases p <;> simp [Part.same] at hp ⊢

theorem State.putBytes_changesOnly (s : State) (a : Nat) (bs : List Byte) :
    ChangesOnly [.memory] s (s.putBytes a bs) := by
  intro p hp
  cases p <;> simp [Part.same] at hp ⊢

theorem State.setStack_changesOnly (s : State) (sp : Fin 17) (stk : Vector Word 16) :
    ChangesOnly [.sp, .stk] s (s.setStack sp stk) := by
  intro p hp
  cases p <;> simp [Part.same] at hp ⊢

/-- Moving `SP` alone keeps every entry, a popped one among them (D5). -/
theorem State.setStack_same_changesOnly (s : State) (sp : Fin 17) : ChangesOnly [.sp] s (s.setStack sp s.stk) := by
  intro p hp
  cases p <;> simp [Part.same] at hp ⊢

theorem State.setRegFlag_changesOnly (s : State) (x : Reg) (b : Byte) (c : Bool) :
    ChangesOnly [.regs] s (s.setRegFlag x b c) :=
  (s.setReg_changesOnly x b).trans ((s.setReg x b).setReg_changesOnly vf _)

theorem State.setRegsFrom_changesOnly (s : State) (k : Nat) (bs : List Byte) :
    ChangesOnly [.regs] s (s.setRegsFrom k bs) := by
  rw [State.setRegsFrom_eq]
  exact s.setV_changesOnly _

theorem State.retire_changesOnly (s : State) (np : Word) (d : Bool) : ChangesOnly [.pc, .reply] s (s.retire np d) := by
  intro p hp
  cases p <;> simp [Part.same] at hp ⊢

/-- The commit adds `PC` and the result to what an instruction's own writes change (R86 step S5). -/
theorem ChangesOnly.retire {ps : List Part} {s t : State} (h : ChangesOnly ps s t) (np : Word) (d : Bool) :
    ChangesOnly ([.pc, .reply] ++ ps) s (t.retire np d) :=
  (h.mono (List.subset_append_right _ _)).trans ((t.retire_changesOnly np d).mono (List.subset_append_left _ _))

/-! ## The parts an instruction changes -/

theorem State.loadBytes_spec {s : State} {a n : Nat} {bs : List Byte} (h : s.loadBytes a n = .ok bs) :
    bs = s.bytesAt a n := by
  by_cases hb : n = 0 ∨ a + n ≤ 4096
  · rw [State.loadBytes_ok s hb] at h
    exact (Except.ok.inj h).symm
  · rw [State.loadBytes_error s hb] at h
    cases h

/-- An instruction that completes changes only the parts its rule names. The instructions are taken by what they write
before the commit. -/
theorem exec_changesOnly {i : Instr} {s t : State} (h : exec i s = .next t) : ChangesOnly (mayChange i) s t := by
  cases i with
  | op00EE =>
    obtain ⟨_, _, hpop, rfl⟩ := exec00EE_next h
    obtain ⟨_, _, _, rfl⟩ := State.pop_spec hpop
    exact (s.setStack_same_changesOnly _).retire _ _
  | op2NNN =>
    obtain ⟨_, hpush, rfl⟩ := exec2NNN_next h
    obtain ⟨_, rfl⟩ := State.push_spec hpush
    exact (s.setStack_changesOnly _ _).retire _ _
  | opDXYN =>
    obtain ⟨_, _, rfl⟩ := execDXYN_next h
    exact (((s.setFb_changesOnly _).mono (by simp)).trans ((State.setReg_changesOnly _ vf _).mono (by simp))).retire _ _
  | opFX0A x =>
    obtain ⟨k, _, rfl⟩ | ⟨_, rfl⟩ := execFX0A_next h
    · exact ((s.setReg_changesOnly x _).mono (by simp)).retire _ _
    · exact ((s.setAwait_changesOnly true x).mono (by simp)).retire _ _
  | opFX33 =>
    obtain ⟨_, hstore, rfl⟩ := execFX33_next h
    obtain ⟨_, rfl⟩ := State.storeBytes_spec hstore
    exact (s.putBytes_changesOnly _ _).retire _ _
  | opFX55 =>
    obtain ⟨_, hstore, rfl⟩ := execFX55_next h
    obtain ⟨_, rfl⟩ := State.storeBytes_spec hstore
    exact (s.putBytes_changesOnly _ _).retire _ _
  | opFX65 =>
    obtain ⟨_, _, rfl⟩ := execFX65_next h
    exact (s.setRegsFrom_changesOnly 0 _).retire _ _
  | opCXNN =>
    obtain rfl := Host.Outcome.next.inj h
    exact ((s.useDraw_changesOnly.mono (by simp)).trans ((s.useDraw.setReg_changesOnly _ _).mono (by simp))).retire _ _
  | op6XNN | op7XNN | op8XY0 | op8XY1 | op8XY2 | op8XY3 | opFX07 =>
    obtain rfl := Host.Outcome.next.inj h
    exact (s.setReg_changesOnly _ _).retire _ _
  | op8XY4 | op8XY5 | op8XY6 | op8XY7 | op8XYE =>
    obtain rfl := Host.Outcome.next.inj h
    exact (s.setRegFlag_changesOnly _ _ _).retire _ _
  | opANNN | opFX1E | opFX29 =>
    obtain rfl := Host.Outcome.next.inj h
    exact (s.setI_changesOnly _).retire _ _
  | op00E0 =>
    obtain rfl := Host.Outcome.next.inj h
    exact (s.setFb_changesOnly _).retire _ _
  | opFX15 =>
    obtain rfl := Host.Outcome.next.inj h
    exact (s.setDT_changesOnly _).retire _ _
  | opFX18 =>
    obtain rfl := Host.Outcome.next.inj h
    exact (s.setST_changesOnly _).retire _ _
  | op1NNN | opBNNN | op3XNN | op4XNN | op5XY0 | op9XY0 | opEX9E | opEXA1 =>
    obtain rfl := Host.Outcome.next.inj h
    exact (ChangesOnly.refl [] s).retire _ _

/-! ## The registers, bytes, stack entries and cells an instruction changes -/

theorem toNat_lt_of_not_mem_destinations {x r : Reg} (hr : r ∉ destinations (.opFX65 x)) : x.toNat < r.toNat := by
  by_contra hle
  exact hr (List.mem_map.mpr ⟨r.toNat, List.mem_range.mpr (by omega), by simp⟩)

/-- Every register but the destinations keeps its value, and `VF` too where the instruction sets no flag (R21, D8). -/
theorem exec_reg_frame {i : Instr} {s t : State} (h : exec i s = .next t) {r : Reg} (hr : r ∉ destinations i)
    (hflag : writesFlag i = true → r ≠ vf) : t.reg r = s.reg r := by
  cases i with
  | opDXYN =>
    obtain ⟨_, _, rfl⟩ := execDXYN_next h
    exact State.reg_setReg_other _ _ (hflag rfl)
  | opFX0A =>
    obtain ⟨_, _, rfl⟩ | ⟨_, rfl⟩ := execFX0A_next h
    · exact State.reg_setReg_other _ _ (List.ne_of_not_mem_cons hr)
    · rfl
  | opFX65 x =>
    obtain ⟨bs, hload, rfl⟩ := execFX65_next h
    have hlen : bs.length ≤ r.toNat := by
      rw [State.loadBytes_spec hload, State.length_bytesAt]
      exact toNat_lt_of_not_mem_destinations hr
    rw [State.reg_retire, State.reg_setRegsFrom, if_pos (Nat.zero_le _), Nat.sub_zero, List.getD_eq_default _ _ hlen]
  | op6XNN | op7XNN | op8XY0 | op8XY1 | op8XY2 | op8XY3 | opCXNN | opFX07 =>
    obtain rfl := Host.Outcome.next.inj h
    exact State.reg_setReg_other _ _ (List.ne_of_not_mem_cons hr)
  | op8XY4 | op8XY5 | op8XY6 | op8XY7 | op8XYE =>
    obtain rfl := Host.Outcome.next.inj h
    exact (State.reg_setReg_other _ _ (hflag rfl)).trans (State.reg_setReg_other _ _ (List.ne_of_not_mem_cons hr))
  | _ => exact exec_changesOnly h .regs (by simp [mayChange]) r

/-- Memory after an instruction: the run of bytes it stores, which lies inside memory, written from `I` on; most
instructions store none (R57). -/
theorem exec_mem {i : Instr} {s t : State} (h : exec i s = .next t) :
    ∃ bs, bs.length = storedLength i ∧ (bs.length = 0 ∨ s.base + bs.length ≤ 4096) ∧
      t.mem = Memory.writeAll s.font s.mem s.base bs := by
  cases i with
  | opFX33 =>
    obtain ⟨_, hstore, rfl⟩ := execFX33_next h
    obtain ⟨hbound, rfl⟩ := State.storeBytes_spec hstore
    exact ⟨_, rfl, hbound, rfl⟩
  | opFX55 x =>
    obtain ⟨_, hstore, rfl⟩ := execFX55_next h
    obtain ⟨hbound, rfl⟩ := State.storeBytes_spec hstore
    exact ⟨_, s.length_regsUpTo x, hbound, rfl⟩
  | op00EE =>
    obtain ⟨_, _, hpop, rfl⟩ := exec00EE_next h
    obtain ⟨_, _, _, rfl⟩ := State.pop_spec hpop
    exact ⟨[], rfl, .inl rfl, rfl⟩
  | op2NNN =>
    obtain ⟨_, hpush, rfl⟩ := exec2NNN_next h
    obtain ⟨_, rfl⟩ := State.push_spec hpush
    exact ⟨[], rfl, .inl rfl, rfl⟩
  | opDXYN =>
    obtain ⟨_, _, rfl⟩ := execDXYN_next h
    exact ⟨[], rfl, .inl rfl, rfl⟩
  | opFX0A =>
    obtain ⟨_, _, rfl⟩ | ⟨_, rfl⟩ := execFX0A_next h
    · exact ⟨[], rfl, .inl rfl, rfl⟩
    · exact ⟨[], rfl, .inl rfl, rfl⟩
  | opFX65 =>
    obtain ⟨_, _, rfl⟩ := execFX65_next h
    rw [State.setRegsFrom_eq]
    exact ⟨[], rfl, .inl rfl, rfl⟩
  | _ =>
    obtain rfl := Host.Outcome.next.inj h
    exact ⟨[], rfl, .inl rfl, rfl⟩

/-- Every byte outside the run stored from `I` on keeps its value. -/
theorem exec_byteAt_frame {i : Instr} {s t : State} (h : exec i s = .next t) {a : Nat}
    (ha : a < s.base ∨ s.base + storedLength i ≤ a) : t.byteAt a = s.byteAt a := by
  obtain ⟨bs, hlen, _, hmem⟩ := exec_mem h
  rw [State.byteAt, hmem, (exec_sameSetting h).font]
  exact Memory.read_writeAll_outside bs s.mem (by rwa [hlen])

/-- Every stack entry but the one a call pushes keeps its value (R27, D5). -/
theorem exec_stk_frame {i : Instr} {s t : State} (h : exec i s = .next t) {k : Fin 16}
    (hk : ∀ nnn, i = .op2NNN nnn → k.val ≠ s.sp.val) : t.stk[k] = s.stk[k] := by
  cases i with
  | op2NNN nnn =>
    obtain ⟨_, hpush, rfl⟩ := exec2NNN_next h
    obtain ⟨hroom, rfl⟩ := State.push_spec hpush
    exact Vector.getElem_set_ne hroom k.isLt (hk nnn rfl).symm
  | _ => exact exec_changesOnly h .stk (by simp [mayChange]) k

/-- Every cell keeps its value but those a sprite lights, and all of them under `00E0` (R32). -/
theorem exec_cell_frame {i : Instr} {s t : State} (h : exec i s = .next t) {c : Fin 2048} (hclear : i ≠ .op00E0)
    (hdark : ∀ x y n, i = .opDXYN x y n → ¬ spriteLights s (s.reg x).toNat (s.reg y).toNat n.toNat c.val) :
    t.fb[c] = s.fb[c] := by
  cases i with
  | op00E0 => exact absurd rfl hclear
  | opDXYN x y n =>
    obtain ⟨sprite, hload, rfl⟩ := execDXYN_next h
    obtain rfl := State.loadBytes_spec hload
    have hrows : (s.bytesAt s.base n.toNat).length ≤ 32 := by
      have := n.isLt
      rw [State.length_bytesAt]
      omega
    have hout : c ∉ spriteCells (s.reg x).toNat (s.reg y).toNat (s.bytesAt s.base n.toNat) :=
      fun hmem => hdark x y n rfl ((mem_spriteCells_iff_lights ..).mp hmem)
    exact (drawSprite_cell (s.fb, false) _ _ hrows c).trans (if_neg hout)
  | _ => exact exec_changesOnly h .display (by simp [mayChange]) c

/-- Settles O16: the parts by `exec_changesOnly`, and inside the parts that may change, the frame of each. -/
theorem instructionsChangeOnlyWhatTheirRulesSay : Obligations.InstructionsChangeOnlyWhatTheirRulesSay := by
  intro i s t h
  exact ⟨exec_changesOnly h, fun _ => exec_reg_frame h, fun _ => exec_byteAt_frame h, fun _ => exec_stk_frame h,
    fun _ => exec_cell_frame h⟩

/-! ## The flag -/

theorem flag_toNat_le_one (c : Bool) : (if c then 1 else 0 : Byte).toNat ≤ 1 := by
  cases c <;> decide

theorem State.reg_vf_setFlag (s : State) (c : Bool) : (s.setFlag c).reg vf = if c then 1 else 0 :=
  s.reg_setReg_same vf _

/-- The six flag instructions write `VF` last, so it is exactly 0 or 1 whatever `x` is (R21, D7). -/
theorem exec_flag_le_one {i : Instr} {s t : State} (h : exec i s = .next t) (hi : writesFlag i = true) :
    (t.reg vf).toNat ≤ 1 := by
  cases i with
  | opDXYN =>
    obtain ⟨_, _, rfl⟩ := execDXYN_next h
    rw [State.reg_retire, State.reg_vf_setFlag]
    exact flag_toNat_le_one _
  | op8XY4 | op8XY5 | op8XY6 | op8XY7 | op8XYE =>
    obtain rfl := Host.Outcome.next.inj h
    rw [State.reg_retire, State.setRegFlag, State.reg_vf_setFlag]
    exact flag_toNat_le_one _
  | _ => cases hi

/-- Settles O17: the second half is the frame of the registers at `VF`. -/
theorem flagIsWrittenByItsSixInstructionsOnly : Obligations.FlagIsWrittenByItsSixInstructionsOnly := by
  intro i s t h
  refine ⟨exec_flag_le_one h, fun hnone hdest => exec_reg_frame h hdest fun hflag => ?_⟩
  rw [hnone] at hflag
  cases hflag

/-! ## The invariant of R30 -/

/-- Only an `FX0A` that finds no key down begins to wait, and it leaves `PC` and memory as they are (R161). -/
theorem exec_begins_waiting {i : Instr} {s t : State} (h : exec i s = .next t) (hs : s.await = false)
    (ht : t.await = true) : ∃ x, i = .opFX0A x ∧ t = (s.setAwait true x).retire s.pc false := by
  cases i with
  | opFX0A x =>
    obtain ⟨_, _, rfl⟩ | ⟨_, rfl⟩ := execFX0A_next h
    · rw [State.retire_await, State.setReg_await, hs] at ht
      cases ht
    · exact ⟨x, rfl, rfl⟩
  | _ =>
    have hsame := (exec_changesOnly h .awaiting (by simp [mayChange])).1
    rw [ht, hs] at hsame
    cases hsame

theorem State.fetch_bound {s : State} {w : Word} (h : s.fetch = .ok w) : s.pc.toNat ≤ 0xFFE := by
  by_contra hpc
  rw [State.fetch_error s (by omega)] at h
  cases h

theorem exec_keeps_wf {i : Instr} {s t : State} (hs : Memory.wf s.font s.mem = true) (h : exec i s = .next t) :
    Memory.wf t.font t.mem = true := by
  obtain ⟨bs, _, hbound, hmem⟩ := exec_mem h
  rw [hmem, (exec_sameSetting h).font]
  rcases hbound with hnil | hbound
  · rwa [List.length_eq_zero_iff.mp hnil]
  · exact Memory.wf_writeAll hbound hs

theorem awaitKey_keeps_inv {s t : State} (hs : s.Inv) (h : awaitKey s = .next t) : t.Inv := by
  obtain ⟨_, _, rfl⟩ | ⟨_, rfl⟩ := awaitKey_next h
  · exact ⟨hs.1, fun hfalse => nomatch hfalse⟩
  · exact hs

/-- An instruction was fetched at `PC`, so a wait it begins stands where it can be fetched again. -/
theorem stepInstruction_keeps_inv {s t : State} (hs : s.Inv) (h : stepInstruction s = .next t) : t.Inv := by
  obtain ⟨_, hawait⟩ | ⟨hidle, w, i, hfetch, _, hexec⟩ := stepInstruction_next h
  · exact awaitKey_keeps_inv hs hawait
  · refine ⟨exec_keeps_wf hs.1 hexec, fun ht => ?_⟩
    obtain ⟨x, _, rfl⟩ := exec_begins_waiting hexec hidle ht
    exact State.fetch_bound hfetch

theorem State.doReset_inv (s : State) : s.doReset.Inv :=
  ⟨rfl, fun hfalse => nomatch hfalse⟩

theorem State.loadProgram_inv {s : State} (hs : s.Inv) (image : List Byte) : (s.loadProgram image).Inv := by
  rcases Nat.lt_or_ge 0xE00 image.length with hlarge | hfits
  · rw [State.loadProgram_tooLarge s hlarge]
    exact hs
  · rw [State.loadProgram_fits s hfits]
    exact ⟨Memory.wf_writeAll (by rw [Config.memSize]; omega) hs.1, hs.2⟩

/-- Every command that answers keeps the invariant. -/
theorem perform_keeps_inv {c : Command} {s t : State} (hs : s.Inv) (h : perform c s = .next t) : t.Inv := by
  obtain ⟨_, rfl⟩ | ⟨_, ⟨image, _, rfl⟩ | ⟨keys, _, hstep⟩ | ⟨_, rfl⟩ | ⟨cell, _, rfl⟩⟩ := perform_next h
  · exact s.doReset_inv
  · exact State.loadProgram_inv hs image
  · exact stepInstruction_keeps_inv (s := s.setKeys keys) hs hstep
  · exact hs
  · exact hs

/-- Settles O18: a step is one command, on the state with that command taken from the schedule. -/
theorem stepKeepsTheInvariant : Obligations.StepKeepsTheInvariant :=
  fun s _ hs h => perform_keeps_inv (s := s.takeCommand) hs h

/-! ## The pending key wait -/

theorem awaitKey_keeps_awaitsItsFX0A {s t : State} (hs : s.AwaitsItsFX0A) (h : awaitKey s = .next t) :
    t.AwaitsItsFX0A := by
  obtain ⟨_, _, rfl⟩ | ⟨_, rfl⟩ := awaitKey_next h
  · exact fun hfalse => nomatch hfalse
  · exact hs

/-- The word at `PC` after a wait begins is the word just fetched and decoded. -/
theorem stepInstruction_keeps_awaitsItsFX0A {s t : State} (hs : s.AwaitsItsFX0A) (h : stepInstruction s = .next t) :
    t.AwaitsItsFX0A := by
  obtain ⟨_, hawait⟩ | ⟨hidle, w, i, hfetch, hdecode, hexec⟩ := stepInstruction_next h
  · exact awaitKey_keeps_awaitsItsFX0A hs hawait
  · intro ht
    obtain ⟨x, rfl, rfl⟩ := exec_begins_waiting hexec hidle ht
    exact ⟨w, hfetch, hdecode⟩

/-- Every command that answers, `LoadProgram` apart, keeps the pending wait. -/
theorem perform_keeps_awaitsItsFX0A {c : Command} {s t : State} (hs : s.AwaitsItsFX0A)
    (hc : ∀ image, c ≠ .loadProgram image) (h : perform c s = .next t) : t.AwaitsItsFX0A := by
  obtain ⟨_, rfl⟩ | ⟨_, ⟨image, rfl, _⟩ | ⟨keys, _, hstep⟩ | ⟨_, rfl⟩ | ⟨cell, _, rfl⟩⟩ := perform_next h
  · exact fun hfalse => nomatch hfalse
  · exact absurd rfl (hc image)
  · exact stepInstruction_keeps_awaitsItsFX0A (s := s.setKeys keys) hs hstep
  · exact hs
  · exact hs

/-- Settles O20: a step is one command, on the state with that command taken from the schedule. -/
theorem stepKeepsThePendingKeyWait : Obligations.StepKeepsThePendingKeyWait :=
  fun s _ hs hc h => perform_keeps_awaitsItsFX0A (s := s.takeCommand) hs hc h

/-! ## The state after reset -/

/-- Settles O19: memory lists nothing and no key is awaited. -/
theorem resetMeetsTheInvariants : Obligations.ResetMeetsTheInvariants :=
  ⟨⟨rfl, fun hfalse => nomatch hfalse⟩, fun hfalse => nomatch hfalse⟩

theorem reset_reg (r : Reg) : State.reset.reg r = 0 :=
  Vector.getElem_replicate _

theorem reset_cell (c : Fin 2048) : State.reset.fb[c] = false :=
  Vector.getElem_replicate _

/-- Above the font's 80 bytes memory is 0 after reset (R38). -/
theorem reset_byteAt_above_font {a : Nat} (ha : 80 ≤ a) : State.reset.byteAt a = 0 := by
  rw [byteAt_nil rfl, Vector.getElem?_eq_none ha]
  rfl

/-- Settles O22: the fields are literals, and the three families of values are read above. -/
theorem resetStateHoldsTheStatedValues : Obligations.ResetStateHoldsTheStatedValues :=
  ⟨reset_reg, rfl, rfl, rfl, rfl, reset_cell, fun _ => reset_byteAt_above_font⟩

/-! ## What no instruction reads -/

/-- An outcome with its next state, if there is one, changed by `g`. -/
def onNext (g : State → State) : Host.Outcome State Fault Refusal → Host.Outcome State Fault Refusal
  | .next t    => .next (g t)
  | .fault f   => .fault f
  | .refused r => .refused r

theorem onNext_congr {g g' : State → State} {o : Host.Outcome State Fault Refusal}
    (h : ∀ t, o = .next t → g t = g' t) : onNext g o = onNext g' o := by
  cases o with
  | next t => exact congrArg _ (h t rfl)
  | fault | refused => rfl

/-- Another sound timer and other stack entries under the same `SP`: what all but three instructions neither read nor
write. -/
def State.setUnread (s : State) (b : Byte) (stk : Vector Word 16) : State := (s.setST b).setStack s.sp stk

section Unread
variable (s : State) (b : Byte) (stk : Vector Word 16)

@[simp] theorem State.reg_setUnread (r : Reg) : (s.setUnread b stk).reg r = s.reg r := rfl
@[simp] theorem State.keys_setUnread : (s.setUnread b stk).keys = s.keys := rfl
@[simp] theorem State.base_setUnread : (s.setUnread b stk).base = s.base := rfl
@[simp] theorem State.regsUpTo_setUnread (x : Reg) : (s.setUnread b stk).regsUpTo x = s.regsUpTo x := rfl
@[simp] theorem State.loadBytes_setUnread (a n : Nat) : (s.setUnread b stk).loadBytes a n = s.loadBytes a n := rfl

theorem State.storeBytes_setUnread (a : Nat) (bs : List Byte) :
    (s.setUnread b stk).storeBytes a bs = (s.storeBytes a bs).map (·.setUnread b stk) := by
  unfold State.storeBytes
  split <;> rfl

theorem State.setRegsFrom_setUnread (k : Nat) (bs : List Byte) :
    (s.setUnread b stk).setRegsFrom k bs = (s.setRegsFrom k bs).setUnread b stk := by
  induction bs generalizing s k with
  | nil => rfl
  | cons v bs ih => exact ih (s.setV (s.v.setIfInBounds k v)) (k + 1)

/-- An instruction that is no return, no call and no load of `ST` runs alike whatever `ST` and the stack entries are, and
leaves them as they are. The instructions named are those with a branch. -/
theorem exec_setUnread {i : Instr} (hret : i ≠ .op00EE) (hcall : ∀ nnn, i ≠ .op2NNN nnn) (hst : ∀ x, i ≠ .opFX18 x) :
    exec i (s.setUnread b stk) = onNext (·.setUnread b stk) (exec i s) := by
  cases i with
  | op00EE => exact absurd rfl hret
  | op2NNN nnn => exact absurd rfl (hcall nnn)
  | opFX18 x => exact absurd rfl (hst x)
  | opDXYN =>
    simp only [exec, execDXYN, State.base_setUnread, State.loadBytes_setUnread]
    cases s.loadBytes _ _ <;> rfl
  | opFX0A =>
    simp only [exec, execFX0A, State.keys_setUnread]
    cases leastKey s.keys <;> rfl
  | opFX33 x =>
    simp only [exec, execFX33, State.base_setUnread, State.reg_setUnread, State.storeBytes_setUnread]
    cases s.storeBytes _ _ <;> rfl
  | opFX55 x =>
    simp only [exec, execFX55, State.base_setUnread, State.regsUpTo_setUnread, State.storeBytes_setUnread]
    cases s.storeBytes _ _ <;> rfl
  | opFX65 =>
    simp only [exec, execFX65, State.base_setUnread, State.loadBytes_setUnread, State.setRegsFrom_setUnread]
    cases s.loadBytes _ _ <;> rfl
  | _ => rfl

end Unread

/-! ## The sound timer -/

theorem State.pop_setST (s : State) (b : Byte) : (s.setST b).pop = s.pop.map fun p => (p.1, p.2.setST b) := by
  by_cases hsp : s.sp.val = 0
  · rw [State.pop_empty s hsp]
    exact State.pop_empty _ hsp
  · obtain ⟨_, hpop⟩ := State.pop_live s hsp
    obtain ⟨_, hpop'⟩ := State.pop_live (s.setST b) hsp
    rw [hpop]
    exact hpop'

theorem State.push_setST (s : State) (b : Byte) (w : Word) : (s.setST b).push w = (s.push w).map (·.setST b) := by
  by_cases hroom : s.sp.val < 16
  · rw [State.push_room s w hroom]
    exact State.push_room (s.setST b) w hroom
  · have hfull : s.sp.val = 16 := by have := s.sp.isLt; omega
    rw [State.push_full s w hfull]
    exact State.push_full _ w hfull

theorem exec_stk {i : Instr} {s t : State} (h : exec i s = .next t) (hcall : ∀ nnn, i ≠ .op2NNN nnn) :
    t.stk = s.stk :=
  Vector.ext fun k hk => exec_stk_frame h (k := ⟨k, hk⟩) fun nnn he => absurd he (hcall nnn)

theorem exec_st {i : Instr} {s t : State} (h : exec i s = .next t) (hst : ∀ x, i ≠ .opFX18 x) : t.st = s.st := by
  cases i with
  | opFX18 x => exact absurd rfl (hst x)
  | _ => exact exec_changesOnly h .sound (by simp [mayChange])

/-- Every instruction but `FX18` commutes with a change of the sound timer (R29). -/
theorem exec_setST {i : Instr} (hst : ∀ x, i ≠ .opFX18 x) (s : State) (b : Byte) :
    exec i (s.setST b) = onNext (·.setST b) (exec i s) := by
  cases i with
  | op00EE =>
    simp only [exec, exec00EE, State.pop_setST]
    cases s.pop <;> rfl
  | op2NNN =>
    simp only [exec, exec2NNN, State.setST_pc, State.push_setST]
    cases s.push _ <;> rfl
  | _ =>
    refine (exec_setUnread s b s.stk (by simp) (by simp) hst).trans (onNext_congr fun t h => ?_)
    rw [← exec_stk h (by simp)]
    rfl

/-- Settles O31: `FX18` overwrites the sound timer, every other instruction carries it along. -/
theorem noInstructionReadsTheSoundTimer : Obligations.NoInstructionReadsTheSoundTimer := by
  intro i s b
  by_cases hload : ∃ x, i = .opFX18 x
  · obtain ⟨x, rfl⟩ := hload
    exact ⟨fun t h => ⟨t, h, ChangesOnly.refl _ t, .inl rfl⟩, fun _ h => h⟩
  · have hst : ∀ x, i ≠ .opFX18 x := fun x he => hload ⟨x, he⟩
    rw [exec_setST hst]
    exact ⟨fun t h => ⟨t.setST b, by rw [h, onNext], t.setST_changesOnly b, .inr ⟨exec_st h hst, rfl⟩⟩,
      fun f h => by rw [h, onNext]⟩

/-! ## Dead stack entries -/

/-- The live entries of a state's stack agree with those of another stack. -/
def LiveAgree (s : State) (stk : Vector Word 16) : Prop := ∀ k : Fin 16, k.val < s.sp.val → stk[k] = s.stk[k]

/-- The state with other stack entries under the same `SP`. -/
def State.setEntries (s : State) (stk : Vector Word 16) : State := s.setStack s.sp stk

theorem State.setEntries_changesOnly (s : State) (stk : Vector Word 16) : ChangesOnly [.stk] s (s.setEntries stk) := by
  intro p hp
  cases p <;> simp [Part.same, State.setEntries] at hp ⊢

/-- A pop reads the top live entry and no other (R27). -/
theorem State.pop_setEntries {s : State} {stk : Vector Word 16} (hlive : LiveAgree s stk) :
    (s.setEntries stk).pop = s.pop.map fun p => (p.1, p.2.setEntries stk) := by
  by_cases hsp : s.sp.val = 0
  · rw [State.pop_empty s hsp]
    exact State.pop_empty _ hsp
  · obtain ⟨hlt, hpop⟩ := State.pop_live s hsp
    obtain ⟨_, hpop'⟩ := State.pop_live (s.setEntries stk) hsp
    have htop : stk[s.sp.val - 1] = s.stk[s.sp.val - 1] :=
      hlive ⟨s.sp.val - 1, hlt⟩ (Nat.sub_one_lt hsp)
    rw [hpop]
    exact hpop'.trans (congrArg Except.ok (Prod.ext htop rfl))

/-- A push overwrites the first dead entry and reads none (R26). -/
theorem State.push_setEntries (s : State) (stk : Vector Word 16) (w : Word) :
    (s.setEntries stk).push w = (s.push w).map (·.setEntries (stk.setIfInBounds s.sp.val w)) := by
  by_cases hroom : s.sp.val < 16
  · have hset : stk.set s.sp.val w hroom = stk.setIfInBounds s.sp.val w := by
      ext k hk
      simp [Vector.getElem_set, Vector.getElem_setIfInBounds]
    rw [State.push_room s w hroom, ← hset]
    exact State.push_room (s.setEntries stk) w hroom
  · have hfull : s.sp.val = 16 := by have := s.sp.isLt; omega
    rw [State.push_full s w hfull]
    exact State.push_full _ w hfull

/-- Every instruction but a call commutes with a change of the dead entries. -/
theorem exec_setEntries {i : Instr} (hcall : ∀ nnn, i ≠ .op2NNN nnn) {s : State} {stk : Vector Word 16}
    (hlive : LiveAgree s stk) : exec i (s.setEntries stk) = onNext (·.setEntries stk) (exec i s) := by
  cases i with
  | op2NNN nnn => exact absurd rfl (hcall nnn)
  | op00EE =>
    simp only [exec, exec00EE, State.pop_setEntries hlive]
    cases s.pop <;> rfl
  | opFX18 => rfl
  | _ =>
    refine (exec_setUnread s s.st stk (by simp) hcall (by simp)).trans (onNext_congr fun t h => ?_)
    rw [← exec_st h (by simp)]
    rfl

theorem exec_sp_le {i : Instr} {s t : State} (h : exec i s = .next t) (hcall : ∀ nnn, i ≠ .op2NNN nnn) :
    t.sp.val ≤ s.sp.val := by
  cases i with
  | op2NNN nnn => exact absurd rfl (hcall nnn)
  | op00EE =>
    obtain ⟨_, _, hpop, rfl⟩ := exec00EE_next h
    obtain ⟨_, _, _, rfl⟩ := State.pop_spec hpop
    exact Nat.sub_le _ _
  | _ => exact le_of_eq (congrArg Fin.val (exec_changesOnly h .sp (by simp [mayChange])))

theorem exec_liveAgree {i : Instr} {s t : State} (h : exec i s = .next t) (hcall : ∀ nnn, i ≠ .op2NNN nnn)
    {stk : Vector Word 16} (hlive : LiveAgree s stk) : LiveAgree t stk := by
  intro k hk
  rw [exec_stk h hcall]
  exact hlive k (hk.trans_le (exec_sp_le h hcall))

theorem exec2NNN_setEntries (nnn : Addr12) (s : State) (stk : Vector Word 16) :
    exec (.op2NNN nnn) (s.setEntries stk) =
      onNext (·.setEntries (stk.setIfInBounds s.sp.val (s.pc + 2))) (exec (.op2NNN nnn) s) := by
  have hpush : (s.setEntries stk).push ((s.setEntries stk).pc + 2) = _ := s.push_setEntries stk (s.pc + 2)
  simp only [exec, exec2NNN, hpush]
  cases s.push _ <;> rfl

theorem exec2NNN_liveAgree {nnn : Addr12} {s t : State} (h : exec (.op2NNN nnn) s = .next t) {stk : Vector Word 16}
    (hlive : LiveAgree s stk) : LiveAgree t (stk.setIfInBounds s.sp.val (s.pc + 2)) := by
  obtain ⟨_, hpush, rfl⟩ := exec2NNN_next h
  obtain ⟨hroom, rfl⟩ := State.push_spec hpush
  intro k hk
  have hk' : k.val < s.sp.val + 1 := hk
  by_cases htop : s.sp.val = k.val
  · simp [htop]
  · simpa [htop] using hlive k (by omega)

/-- A run that commutes with the change of entries, the live entries agreeing at its end, is what R24 asks for. -/
theorem runsAlike_of_setEntries {i : Instr} {s : State} {stk stk' : Vector Word 16}
    (hcomm : exec i (s.setEntries stk) = onNext (·.setEntries stk') (exec i s))
    (hlive : ∀ t, exec i s = .next t → LiveAgree t stk') :
    (∀ t, exec i s = .next t → ∃ u, exec i (s.setEntries stk) = .next u ∧ ChangesOnly [.stk] t u ∧
      ∀ k : Fin 16, k.val < t.sp.val → u.stk[k] = t.stk[k]) ∧
    (∀ f, exec i s = .fault f → exec i (s.setEntries stk) = .fault f) := by
  rw [hcomm]
  exact ⟨fun t h => ⟨t.setEntries stk', by rw [h, onNext], t.setEntries_changesOnly stk', hlive t h⟩,
    fun f h => by rw [h, onNext]⟩

/-- Settles O32: a call overwrites the first dead entry, every other instruction carries the dead entries along. -/
theorem deadStackEntriesAreUnobservable : Obligations.DeadStackEntriesAreUnobservable := by
  intro i s stk hlive
  by_cases hcall : ∃ nnn, i = .op2NNN nnn
  · obtain ⟨nnn, rfl⟩ := hcall
    exact runsAlike_of_setEntries (exec2NNN_setEntries nnn s stk) fun t h => exec2NNN_liveAgree h hlive
  · have hno : ∀ nnn, i ≠ .op2NNN nnn := fun nnn he => hcall ⟨nnn, he⟩
    exact runsAlike_of_setEntries (exec_setEntries hno hlive) fun t h => exec_liveAgree h hno hlive

end Sys2Proof.Machine
end

section
/-! Family 20_memory: the fetch, the program image, and a store into the next instruction (O7, O24, O30). -/

namespace Sys2Proof.Machine

/-! ## The fetch -/

/-- Two bytes joined, the first the high one. -/
theorem byte_append_toNat (hi lo : Byte) : (hi ++ lo : Word).toNat = 256 * hi.toNat + lo.toNat := by
  rw [BitVec.toNat_append, ← Nat.shiftLeft_add_eq_or_of_lt lo.isLt, Nat.shiftLeft_eq, Nat.mul_comm]

/-- Settles O7: both bytes lie in memory exactly up to 0xFFE. -/
theorem fetchIsBigEndianAndBounded : Obligations.FetchIsBigEndianAndBounded := by
  intro s
  exact ⟨fun hin => ⟨_, s.fetch_ok (by omega), byte_append_toNat _ _⟩, fun hout => s.fetch_error (by omega)⟩

/-! ## The program image -/

theorem perform_loadProgram {s : State} (h : s.resetDone = true) (image : List Byte) :
    perform (.loadProgram image) s = .next (s.loadProgram image) := by
  rw [perform, if_pos h]

/-- Settles O24: an image that fits is one run put at 0x200; one that does not sets the reply alone. -/
theorem loadProgramCopiesTheImage : Obligations.LoadProgramCopiesTheImage := by
  intro s image hreset
  rw [perform_loadProgram hreset]
  constructor
  · intro hfits
    rw [s.loadProgram_fits hfits]
    have hput : ChangesOnly [.memory, .reply] s (s.putBytes 0x200 image) := (s.putBytes_changesOnly _ _).mono (by simp)
    have hreply := (State.setReply_changesOnly (s.putBytes 0x200 image) {}).mono (qs := [.memory, .reply]) (by simp)
    exact ⟨_, rfl, rfl, fun _ => s.byteAt_putBytes_inside, fun _ => s.byteAt_putBytes_outside, hput.trans hreply⟩
  · intro hlarge
    rw [s.loadProgram_tooLarge hlarge]
    exact ⟨_, rfl, rfl, s.setReply_changesOnly _⟩

/-! ## The two instructions that store -/

theorem exec_opFX33_inBounds {x : Reg} {s : State} (h : s.base + 2 ≤ 4095) :
    exec (.opFX33 x) s = .next ((s.putBytes s.base (bcdDigits (s.reg x))).retire (s.pc + 2) false) := by
  have hlen : (bcdDigits (s.reg x)).length = 3 := rfl
  rw [exec, execFX33, s.storeBytes_ok (by omega)]
  rfl

theorem exec_opFX55_inBounds {x : Reg} {s : State} (h : s.base + x.toNat ≤ 4095) :
    exec (.opFX55 x) s = .next ((s.putBytes s.base (s.regsUpTo x)).retire (s.pc + 2) false) := by
  have hlen := s.length_regsUpTo x
  rw [exec, execFX55, s.storeBytes_ok (by omega)]
  rfl

/-! ## A store into the next instruction -/

/-- The byte a run stored from address `a` on leaves at address `b`, where it reaches `b`. -/
def runByteAt (a : Nat) (bs : List Byte) (b : Nat) : Option Byte := if a ≤ b then bs[b - a]? else none

theorem State.byteAt_putBytes_eq_getD (s : State) (a b : Nat) (bs : List Byte) :
    (s.putBytes a bs).byteAt b = (runByteAt a bs b).getD (s.byteAt b) := by
  rw [State.byteAt_putBytes, runByteAt]
  split
  · exact List.getD_eq_getElem?_getD
  · rfl

/-- `FX33` stores the run of the three digits (R143). -/
theorem bcdByteAt_eq_runByteAt (x : Reg) (s : State) : bcdByteAt x s = runByteAt s.base (bcdDigits (s.reg x)) := by
  funext b
  rw [bcdByteAt, runByteAt]
  by_cases hb : s.base ≤ b
  · obtain ⟨k, rfl⟩ := Nat.exists_eq_add_of_le hb
    rw [if_pos hb, Nat.add_sub_cancel_left]
    match k with
    | 0 | 1 | 2 => simp [bcdDigits]
    | k + 3 =>
      rw [if_neg (by omega), if_neg (by omega), if_neg (by omega)]
      rfl
  · rw [if_neg (by omega), if_neg (by omega), if_neg (by omega), if_neg hb]

/-- `FX55` stores the run of `V[0]..V[x]` (R144). -/
theorem blockByteAt_eq_runByteAt (x : Reg) (s : State) : blockByteAt x s = runByteAt s.base (s.regsUpTo x) := by
  funext b
  have hlen := s.length_regsUpTo x
  rw [blockByteAt, runByteAt]
  by_cases hb : s.base ≤ b
  · rw [if_pos hb]
    by_cases hx : b ≤ s.base + x.toNat
    · rw [if_pos ⟨hb, hx⟩, List.getElem?_eq_getElem (by omega), State.getElem_regsUpTo]
    · rw [if_neg fun h => hx h.2, List.getElem?_eq_none (by omega)]
  · rw [if_neg fun h => hb h.1, if_neg hb]

/-- The fetch after a store reads memory as the store left it, with nothing in between (R65, D28). -/
theorem fetchSees_putBytes {s : State} {np : Word} (a : Nat) (bs : List Byte) (hnp : np.toNat ≤ 0xFFE) (d : Bool) :
    FetchSees (runByteAt a bs) s ((s.putBytes a bs).retire np d) := by
  rw [FetchSees, State.fetch_ok _ (by rw [State.retire_pc]; omega)]
  simp only [State.retire_pc, State.byteAt_retire, State.byteAt_putBytes_eq_getD]

theorem opFX33_fetchSees {s : State} {x : Reg} (hpc : (s.pc + 2).toNat ≤ 0xFFE) (hbound : s.base + 2 ≤ 4095) :
    ∃ t, exec (.opFX33 x) s = .next t ∧ t.pc = s.pc + 2 ∧ FetchSees (bcdByteAt x s) s t := by
  rw [bcdByteAt_eq_runByteAt]
  exact ⟨_, exec_opFX33_inBounds hbound, rfl, fetchSees_putBytes _ _ hpc _⟩

theorem opFX55_fetchSees {s : State} {x : Reg} (hpc : (s.pc + 2).toNat ≤ 0xFFE) (hbound : s.base + x.toNat ≤ 4095) :
    ∃ t, exec (.opFX55 x) s = .next t ∧ t.pc = s.pc + 2 ∧ FetchSees (blockByteAt x s) s t := by
  rw [blockByteAt_eq_runByteAt]
  exact ⟨_, exec_opFX55_inBounds hbound, rfl, fetchSees_putBytes _ _ hpc _⟩

theorem blockByteAt_base_add {s : State} {x : Reg} {k : Nat} (hk : k ≤ x.toNat) :
    blockByteAt x s (s.base + k) = some (s.reg (BitVec.ofNat 4 k)) := by
  rw [blockByteAt, if_pos (by omega), Nat.add_sub_cancel_left]

/-- `FX55` on the next instruction stores both bytes of its word. -/
theorem opFX55_replaces_next_word {s : State} {x : Reg} (hx : 1 ≤ x.toNat) (hi : s.i = s.pc + 2)
    (hbound : s.i.toNat + x.toNat ≤ 4095) :
    ∃ t, exec (.opFX55 x) s = .next t ∧ t.fetch = .ok (s.reg 0 ++ s.reg 1) := by
  have hlast : (s.pc + 2).toNat ≤ 0xFFE := by
    rw [← hi]
    omega
  obtain ⟨t, hexec, hpc, hsees⟩ := opFX55_fetchSees hlast hbound
  have hbase : t.pc.toNat = s.base := by rw [hpc, ← hi, State.base]
  have hhigh : blockByteAt x s s.base = some (s.reg 0) := blockByteAt_base_add (k := 0) (Nat.zero_le _)
  have hlow : blockByteAt x s (s.base + 1) = some (s.reg 1) := blockByteAt_base_add hx
  rw [FetchSees, hbase, hhigh, hlow] at hsees
  exact ⟨t, hexec, hsees⟩

/-- Settles O30: both stores put one run of bytes, and the fetch reads it back. -/
theorem aStoredWordIsTheNextWordFetched : Obligations.AStoredWordIsTheNextWordFetched :=
  ⟨fun _ _ => opFX33_fetchSees, fun _ _ => opFX55_fetchSees, fun _ _ => opFX55_replaces_next_word⟩

end Sys2Proof.Machine
end

section
/-! Family 30_encoding: the decoder and the encoder, the opcode map, the `Step` sequence and the advance of `PC` (O1 to O6, O15). -/

namespace Sys2Proof.Machine

/-! ## Decoding what was encoded -/

/-- The word of an instruction has the fields of the instruction, format by format (R82). -/
theorem encode_fits (i : Instr) : Fits (decodeFields (encode i)) i := by
  cases i with
  | op00E0 | op00EE => exact ⟨rfl, rfl⟩
  | op1NNN nnn | op2NNN nnn | opANNN nnn | opBNNN nnn => exact decodeFields_addr _ nnn
  | op3XNN x nn | op4XNN x nn | op6XNN x nn | op7XNN x nn | opCXNN x nn => exact decodeFields_byte _ x nn
  | opEX9E x | opEXA1 x | opFX07 x | opFX0A x | opFX15 x | opFX18 x | opFX1E x | opFX29 x | opFX33 x | opFX55 x
  | opFX65 x => exact decodeFields_byte _ x _
  | op5XY0 x y | op8XY0 x y | op8XY1 x y | op8XY2 x y | op8XY3 x y | op8XY4 x y | op8XY5 x y | op8XY6 x y
  | op8XY7 x y | op8XYE x y | op9XY0 x y | opDXYN x y =>
    rw [encode, decodeFields_nibbles]
    exact ⟨rfl, rfl, rfl, rfl⟩

theorem decode_encode (i : Instr) : decode (encode i) = .ok i :=
  (decode_ok_iff_fits _ _).mpr (encode_fits i)

/-- Settles O1: the encoded word has the instruction's fields, and those fields select the instruction. -/
theorem decodeOfEncodeIsTheInstruction : Obligations.DecodeOfEncodeIsTheInstruction := decode_encode

/-! ## Encoding what was decoded -/

theorem word_of_nibbles {w : Word} {a b c d : Nibble}
    (h : (decodeFields w).fam = a ∧ (decodeFields w).x = b ∧ (decodeFields w).y = c ∧ (decodeFields w).n = d) :
    a ++ b ++ c ++ d = w := by
  obtain ⟨rfl, rfl, rfl, rfl⟩ := h
  exact word_eq_nibbles w

theorem word_of_byte {w : Word} {a b : Nibble} {nn : Byte}
    (h : (decodeFields w).fam = a ∧ (decodeFields w).x = b ∧ (decodeFields w).nn = nn) : a ++ b ++ nn = w := by
  obtain ⟨rfl, rfl, rfl⟩ := h
  have hhigh : (decodeFields w).fam ++ (decodeFields w).x = w.extractLsb' 8 8 :=
    BitVec.extractLsb'_append_extractLsb'_eq_extractLsb' rfl
  rw [hhigh]
  exact wordOfBytes_bytesOfWord w

theorem word_of_addr {w : Word} {a : Nibble} {nnn : Addr12}
    (h : (decodeFields w).fam = a ∧ (decodeFields w).nnn = nnn) : a ++ nnn = w := by
  obtain ⟨rfl, rfl⟩ := h
  exact (BitVec.extractLsb'_append_extractLsb'_eq_extractLsb' rfl).trans BitVec.extractLsb'_eq_self

/-- The fields that fit an instruction leave no bit of the word open (R84, D3). -/
theorem encode_of_fits {w : Word} {i : Instr} (h : Fits (decodeFields w) i) : encode i = w := by
  cases i with
  | op00E0 | op00EE | op1NNN | op2NNN | opANNN | opBNNN => exact word_of_addr h
  | op3XNN | op4XNN | op6XNN | op7XNN | opCXNN | opEX9E | opEXA1 | opFX07 | opFX0A | opFX15 | opFX18 | opFX1E
  | opFX29 | opFX33 | opFX55 | opFX65 => exact word_of_byte h
  | op5XY0 | op8XY0 | op8XY1 | op8XY2 | op8XY3 | op8XY4 | op8XY5 | op8XY6 | op8XY7 | op8XYE | op9XY0 | opDXYN =>
    exact word_of_nibbles h

theorem encode_of_decode {w : Word} {i : Instr} (h : decode w = .ok i) : encode i = w :=
  encode_of_fits ((decode_ok_iff_fits w i).mp h)

/-- Settles O2: what a word decodes to fits its fields, and the fields that are fitted make up the whole word. -/
theorem encodeOfDecodeIsTheWord : Obligations.EncodeOfDecodeIsTheWord := fun _ _ => encode_of_decode

/-! ## The words of each row

Four masks serve all 34 rows: the whole word, the family nibble, and the family with the low nibble or the low byte. -/

section Masks
variable {mk : Fields → Instr}

theorem WordsDecodeTo.whole {c : Word} (h : Fits (decodeFields c) (mk (decodeFields c))) :
    WordsDecodeTo 0xFFFF c mk := by
  intro w hw
  obtain rfl := (mask_whole w c).mp hw
  exact (decode_ok_iff_fits _ _).mpr h

theorem WordsDecodeTo.family (a : Nibble) (h : ∀ f : Fields, f.fam = a → Fits f (mk f)) :
    WordsDecodeTo 0xF000 (a ++ 0#4 ++ 0#4 ++ 0#4) mk :=
  fun w hw => (decode_ok_iff_fits _ _).mpr (h _ ((mask_family w a).mp hw))

theorem WordsDecodeTo.familyLow (a d : Nibble) (h : ∀ f : Fields, f.fam = a → f.n = d → Fits f (mk f)) :
    WordsDecodeTo 0xF00F (a ++ 0#4 ++ 0#4 ++ d) mk := by
  intro w hw
  obtain ⟨hfam, hn⟩ := (mask_family_low w a d).mp hw
  exact (decode_ok_iff_fits _ _).mpr (h _ hfam hn)

theorem WordsDecodeTo.familyByte (a : Nibble) (nn : Byte) (h : ∀ f : Fields, f.fam = a → f.nn = nn → Fits f (mk f)) :
    WordsDecodeTo 0xF0FF (a ++ 0#4 ++ nn.extractLsb' 4 4 ++ nn.extractLsb' 0 4) mk := by
  intro w hw
  obtain ⟨hfam, hnn⟩ := (mask_family_byte w a nn).mp hw
  exact (decode_ok_iff_fits _ _).mpr (h _ hfam hnn)

end Masks

/-! Row by row, in the order of R84. -/

theorem words_op00E0 : WordsDecodeTo 0xFFFF 0x00E0 (fun _ => .op00E0) := .whole ⟨rfl, rfl⟩
theorem words_op00EE : WordsDecodeTo 0xFFFF 0x00EE (fun _ => .op00EE) := .whole ⟨rfl, rfl⟩
theorem words_op1NNN : WordsDecodeTo 0xF000 0x1000 (fun f => .op1NNN f.nnn) := .family 0x1 fun _ h => ⟨h, rfl⟩
theorem words_op2NNN : WordsDecodeTo 0xF000 0x2000 (fun f => .op2NNN f.nnn) := .family 0x2 fun _ h => ⟨h, rfl⟩
theorem words_op3XNN : WordsDecodeTo 0xF000 0x3000 (fun f => .op3XNN f.x f.nn) := .family 0x3 fun _ h => ⟨h, rfl, rfl⟩
theorem words_op4XNN : WordsDecodeTo 0xF000 0x4000 (fun f => .op4XNN f.x f.nn) := .family 0x4 fun _ h => ⟨h, rfl, rfl⟩
theorem words_op5XY0 : WordsDecodeTo 0xF00F 0x5000 (fun f => .op5XY0 f.x f.y) :=
  .familyLow 0x5 0x0 fun _ h hn => ⟨h, rfl, rfl, hn⟩
theorem words_op6XNN : WordsDecodeTo 0xF000 0x6000 (fun f => .op6XNN f.x f.nn) := .family 0x6 fun _ h => ⟨h, rfl, rfl⟩
theorem words_op7XNN : WordsDecodeTo 0xF000 0x7000 (fun f => .op7XNN f.x f.nn) := .family 0x7 fun _ h => ⟨h, rfl, rfl⟩
theorem words_op8XY0 : WordsDecodeTo 0xF00F 0x8000 (fun f => .op8XY0 f.x f.y) :=
  .familyLow 0x8 0x0 fun _ h hn => ⟨h, rfl, rfl, hn⟩
theorem words_op8XY1 : WordsDecodeTo 0xF00F 0x8001 (fun f => .op8XY1 f.x f.y) :=
  .familyLow 0x8 0x1 fun _ h hn => ⟨h, rfl, rfl, hn⟩
theorem words_op8XY2 : WordsDecodeTo 0xF00F 0x8002 (fun f => .op8XY2 f.x f.y) :=
  .familyLow 0x8 0x2 fun _ h hn => ⟨h, rfl, rfl, hn⟩
theorem words_op8XY3 : WordsDecodeTo 0xF00F 0x8003 (fun f => .op8XY3 f.x f.y) :=
  .familyLow 0x8 0x3 fun _ h hn => ⟨h, rfl, rfl, hn⟩
theorem words_op8XY4 : WordsDecodeTo 0xF00F 0x8004 (fun f => .op8XY4 f.x f.y) :=
  .familyLow 0x8 0x4 fun _ h hn => ⟨h, rfl, rfl, hn⟩
theorem words_op8XY5 : WordsDecodeTo 0xF00F 0x8005 (fun f => .op8XY5 f.x f.y) :=
  .familyLow 0x8 0x5 fun _ h hn => ⟨h, rfl, rfl, hn⟩
theorem words_op8XY6 : WordsDecodeTo 0xF00F 0x8006 (fun f => .op8XY6 f.x f.y) :=
  .familyLow 0x8 0x6 fun _ h hn => ⟨h, rfl, rfl, hn⟩
theorem words_op8XY7 : WordsDecodeTo 0xF00F 0x8007 (fun f => .op8XY7 f.x f.y) :=
  .familyLow 0x8 0x7 fun _ h hn => ⟨h, rfl, rfl, hn⟩
theorem words_op8XYE : WordsDecodeTo 0xF00F 0x800E (fun f => .op8XYE f.x f.y) :=
  .familyLow 0x8 0xE fun _ h hn => ⟨h, rfl, rfl, hn⟩
theorem words_op9XY0 : WordsDecodeTo 0xF00F 0x9000 (fun f => .op9XY0 f.x f.y) :=
  .familyLow 0x9 0x0 fun _ h hn => ⟨h, rfl, rfl, hn⟩
theorem words_opANNN : WordsDecodeTo 0xF000 0xA000 (fun f => .opANNN f.nnn) := .family 0xA fun _ h => ⟨h, rfl⟩
theorem words_opBNNN : WordsDecodeTo 0xF000 0xB000 (fun f => .opBNNN f.nnn) := .family 0xB fun _ h => ⟨h, rfl⟩
theorem words_opCXNN : WordsDecodeTo 0xF000 0xC000 (fun f => .opCXNN f.x f.nn) := .family 0xC fun _ h => ⟨h, rfl, rfl⟩
theorem words_opDXYN : WordsDecodeTo 0xF000 0xD000 (fun f => .opDXYN f.x f.y f.n) :=
  .family 0xD fun _ h => ⟨h, rfl, rfl, rfl⟩
theorem words_opEX9E : WordsDecodeTo 0xF0FF 0xE09E (fun f => .opEX9E f.x) :=
  .familyByte 0xE 0x9E fun _ h hnn => ⟨h, rfl, hnn⟩
theorem words_opEXA1 : WordsDecodeTo 0xF0FF 0xE0A1 (fun f => .opEXA1 f.x) :=
  .familyByte 0xE 0xA1 fun _ h hnn => ⟨h, rfl, hnn⟩
theorem words_opFX07 : WordsDecodeTo 0xF0FF 0xF007 (fun f => .opFX07 f.x) :=
  .familyByte 0xF 0x07 fun _ h hnn => ⟨h, rfl, hnn⟩
theorem words_opFX0A : WordsDecodeTo 0xF0FF 0xF00A (fun f => .opFX0A f.x) :=
  .familyByte 0xF 0x0A fun _ h hnn => ⟨h, rfl, hnn⟩
theorem words_opFX15 : WordsDecodeTo 0xF0FF 0xF015 (fun f => .opFX15 f.x) :=
  .familyByte 0xF 0x15 fun _ h hnn => ⟨h, rfl, hnn⟩
theorem words_opFX18 : WordsDecodeTo 0xF0FF 0xF018 (fun f => .opFX18 f.x) :=
  .familyByte 0xF 0x18 fun _ h hnn => ⟨h, rfl, hnn⟩
theorem words_opFX1E : WordsDecodeTo 0xF0FF 0xF01E (fun f => .opFX1E f.x) :=
  .familyByte 0xF 0x1E fun _ h hnn => ⟨h, rfl, hnn⟩
theorem words_opFX29 : WordsDecodeTo 0xF0FF 0xF029 (fun f => .opFX29 f.x) :=
  .familyByte 0xF 0x29 fun _ h hnn => ⟨h, rfl, hnn⟩
theorem words_opFX33 : WordsDecodeTo 0xF0FF 0xF033 (fun f => .opFX33 f.x) :=
  .familyByte 0xF 0x33 fun _ h hnn => ⟨h, rfl, hnn⟩
theorem words_opFX55 : WordsDecodeTo 0xF0FF 0xF055 (fun f => .opFX55 f.x) :=
  .familyByte 0xF 0x55 fun _ h hnn => ⟨h, rfl, hnn⟩
theorem words_opFX65 : WordsDecodeTo 0xF0FF 0xF065 (fun f => .opFX65 f.x) :=
  .familyByte 0xF 0x65 fun _ h hnn => ⟨h, rfl, hnn⟩

/-! ## The opcode map -/

/-- Every word of the row decodes, and to an instruction of the row's pattern. -/
def RowDecodes (r : OpcodeRow) : Prop :=
  ∃ mk : Fields → Instr, WordsDecodeTo r.mask r.bits mk ∧ ∀ f, patternOf (mk f) = r.pattern

theorem opcodeMap_rowDecodes : ∀ r ∈ opcodeMap, RowDecodes r :=
  List.forall_iff_forall_mem.mp (show List.Forall RowDecodes opcodeMap from ⟨
    ⟨_, words_op00E0, fun _ => rfl⟩,
    ⟨_, words_op00EE, fun _ => rfl⟩,
    ⟨_, words_op1NNN, fun _ => rfl⟩,
    ⟨_, words_op2NNN, fun _ => rfl⟩,
    ⟨_, words_op3XNN, fun _ => rfl⟩,
    ⟨_, words_op4XNN, fun _ => rfl⟩,
    ⟨_, words_op5XY0, fun _ => rfl⟩,
    ⟨_, words_op6XNN, fun _ => rfl⟩,
    ⟨_, words_op7XNN, fun _ => rfl⟩,
    ⟨_, words_op8XY0, fun _ => rfl⟩,
    ⟨_, words_op8XY1, fun _ => rfl⟩,
    ⟨_, words_op8XY2, fun _ => rfl⟩,
    ⟨_, words_op8XY3, fun _ => rfl⟩,
    ⟨_, words_op8XY4, fun _ => rfl⟩,
    ⟨_, words_op8XY5, fun _ => rfl⟩,
    ⟨_, words_op8XY6, fun _ => rfl⟩,
    ⟨_, words_op8XY7, fun _ => rfl⟩,
    ⟨_, words_op8XYE, fun _ => rfl⟩,
    ⟨_, words_op9XY0, fun _ => rfl⟩,
    ⟨_, words_opANNN, fun _ => rfl⟩,
    ⟨_, words_opBNNN, fun _ => rfl⟩,
    ⟨_, words_opCXNN, fun _ => rfl⟩,
    ⟨_, words_opDXYN, fun _ => rfl⟩,
    ⟨_, words_opEX9E, fun _ => rfl⟩,
    ⟨_, words_opEXA1, fun _ => rfl⟩,
    ⟨_, words_opFX07, fun _ => rfl⟩,
    ⟨_, words_opFX0A, fun _ => rfl⟩,
    ⟨_, words_opFX15, fun _ => rfl⟩,
    ⟨_, words_opFX18, fun _ => rfl⟩,
    ⟨_, words_opFX1E, fun _ => rfl⟩,
    ⟨_, words_opFX29, fun _ => rfl⟩,
    ⟨_, words_opFX33, fun _ => rfl⟩,
    ⟨_, words_opFX55, fun _ => rfl⟩,
    ⟨_, words_opFX65, fun _ => rfl⟩⟩)

theorem decode_of_selects {r : OpcodeRow} {w : Word} (hr : r ∈ opcodeMap) (hw : r.selects w = true) :
    ∃ i, decode w = .ok i ∧ patternOf i = r.pattern := by
  obtain ⟨mk, hdecode, hpattern⟩ := opcodeMap_rowDecodes r hr
  exact ⟨_, hdecode w (beq_iff_eq.mp hw), hpattern _⟩

open Laws.EncodesInRow in
theorem encode_selects (i : Instr) : ∃ r ∈ opcodeMap, r.pattern = patternOf i ∧ r.selects (encode i) = true := by
  cases i
  exacts [op00E0, op00EE, op1NNN _, op2NNN _, op3XNN _ _, op4XNN _ _, op5XY0 _ _, op6XNN _ _, op7XNN _ _, op8XY0 _ _,
    op8XY1 _ _, op8XY2 _ _, op8XY3 _ _, op8XY4 _ _, op8XY5 _ _, op8XY6 _ _, op8XY7 _ _, op8XYE _ _, op9XY0 _ _,
    opANNN _, opBNNN _, opCXNN _ _, opDXYN _ _ _, opEX9E _, opEXA1 _, opFX07 _, opFX0A _, opFX15 _, opFX18 _,
    opFX1E _, opFX29 _, opFX33 _, opFX55 _, opFX65 _]

theorem selects_of_decode {w : Word} {i : Instr} (h : decode w = .ok i) : ∃ r ∈ opcodeMap, r.selects w = true := by
  obtain ⟨r, hr, _, hselects⟩ := encode_selects i
  exact ⟨r, hr, encode_of_decode h ▸ hselects⟩

theorem decode_unknown_of_no_row {w : Word} (h : ∀ r ∈ opcodeMap, r.selects w = false) :
    decode w = .error .unknownOpcode := by
  rw [decode_error_iff, Option.eq_none_iff_forall_ne_some]
  intro i hselect
  obtain ⟨r, hr, hw⟩ := selects_of_decode ((decode_ok_iff w i).mpr hselect)
  exact Bool.false_ne_true ((h r hr).symm.trans hw)

theorem opcodeMap_patterns_nodup : (opcodeMap.map OpcodeRow.pattern).Nodup := by decide

/-- Two rows that select one word have the pattern of the one instruction it decodes to. -/
theorem opcodeMap_disjoint {r q : OpcodeRow} {w : Word} (hr : r ∈ opcodeMap) (hq : q ∈ opcodeMap)
    (hrw : r.selects w = true) (hqw : q.selects w = true) : r = q := by
  obtain ⟨i, hi, hir⟩ := decode_of_selects hr hrw
  obtain ⟨j, hj, hjq⟩ := decode_of_selects hq hqw
  obtain rfl := Except.ok.inj (hi.symm.trans hj)
  exact List.inj_on_of_nodup_map opcodeMap_patterns_nodup hr hq (hir.symm.trans hjq)

/-- Settles O3: each row's words decode to the row's pattern, the patterns are distinct, and every word that decodes is
the encoding of an instruction, which its row selects. -/
theorem everyWordSelectsOneRowOrIsUnknown : Obligations.EveryWordSelectsOneRowOrIsUnknown :=
  fun _ => ⟨fun _ hr _ hq => opcodeMap_disjoint hr hq, fun _ => decode_of_selects, decode_unknown_of_no_row⟩

/-- Settles O4: the decoder run on nineteen words. -/
theorem writtenWordsDecode : Obligations.WrittenWordsDecode := by
  unfold Obligations.WrittenWordsDecode
  decide

/-! ## The fields -/

/-- The overlapping fields of a word agree (R81). -/
theorem decodeFields_overlap (w : Word) :
    (decodeFields w).nn = (decodeFields w).y ++ (decodeFields w).n ∧
    (decodeFields w).nnn = (decodeFields w).x ++ (decodeFields w).y ++ (decodeFields w).n := by
  simpa [Fields.wellFormed] using decodeFields_wellFormed w

/-- The bits of a word from bit `k` on, by their value. -/
theorem slice_toNat (w : Word) (k n : Nat) : (w.extractLsb' k n).toNat = w.toNat / 2 ^ k % 2 ^ n := by
  rw [BitVec.extractLsb'_toNat, Nat.shiftRight_eq_div_pow]

theorem low_slice_toNat (w : Word) (n : Nat) : (w.extractLsb' 0 n).toNat = w.toNat % 2 ^ n := by
  rw [slice_toNat, Nat.pow_zero, Nat.div_one]

/-- Settles O5: each field is a slice, and above the family nibble there is nothing. -/
theorem fieldsAreTheSlicesOfTheWord : Obligations.FieldsAreTheSlicesOfTheWord := by
  intro w
  have hfam : w.toNat / 4096 < 16 := by
    have := w.isLt
    omega
  exact ⟨(slice_toNat w 12 4).trans (Nat.mod_eq_of_lt hfam), slice_toNat w 8 4, slice_toNat w 4 4, low_slice_toNat w 4,
    low_slice_toNat w 8, low_slice_toNat w 12, decodeFields_overlap w⟩

/-! ## The step -/

/-- With no key awaited, S1 to S4 of R86 come to the instruction that the bytes at `PC` decode to. -/
theorem stepInstruction_of_bytes {s : State} {i : Instr} (hawait : s.await = false) (hpc : s.pc.toNat ≤ 0xFFE)
    (hdecode : decode (wordOfBytes (s.byteAt s.pc.toNat) (s.byteAt (s.pc.toNat + 1))) = .ok i) :
    stepInstruction s = exec i s :=
  stepInstruction_decoded hawait (fetch_wordOfBytes s (by omega)) hdecode

/-- Settles O6: neither taking the command nor sampling the keys changes what is fetched. -/
theorem stepRunsTheDecodedInstruction : Obligations.StepRunsTheDecodedInstruction := by
  intro s i hreset hawait hpc hdecode
  constructor
  · intro keys cs hschedule
    rw [step_of_schedule_cons hschedule, perform_step (s := s.setSchedule cs) hreset]
    exact stepInstruction_of_bytes hawait hpc hdecode
  · intro hschedule
    rw [step_of_schedule_nil hschedule, perform_step hreset]
    exact stepInstruction_of_bytes hawait hpc hdecode

/-! ## The advance of `PC` -/

theorem State.getElem?_keys_eq_keyDown (s : State) (b : Byte) : s.keys[b.toNat % 16]? = some (s.keyDown b) :=
  Vector.getElem?_eq_getElem _

/-- A conditional skip is its condition and the skip, and nothing else (R110). -/
theorem exec_of_skipCondition {i : Instr} {s : State} {c : Bool} (h : skipCondition i s = some c) :
    exec i s = s.skipIf c := by
  cases i with
  | op3XNN | op5XY0 =>
    obtain rfl := Option.some.inj h
    rfl
  | op4XNN | op9XY0 =>
    obtain rfl := Option.some.inj h
    exact congrArg s.skipIf decide_not.symm
  | opEX9E | opEXA1 =>
    simp only [skipCondition, State.getElem?_keys_eq_keyDown, Option.some.injEq] at h
    simp [exec, execEX9E, execEXA1, ← h]
  | _ => cases h

theorem nextPcValue_of_skipCondition {i : Instr} {s : State} {c : Bool} (h : skipCondition i s = some c) :
    nextPcValue i s = some (s.pc.toNat + if c then 4 else 2) := by
  cases i with
  | op3XNN | op4XNN | op5XY0 | op9XY0 | opEX9E | opEXA1 =>
    unfold nextPcValue
    rw [h]
    cases c <;> rfl
  | _ => cases h

/-- `PC` after a conditional skip (R110 to R116). -/
theorem exec_skip_pc {i : Instr} {s t : State} {c : Bool} (hskip : skipCondition i s = some c)
    (h : exec i s = .next t) : ∃ np, nextPcValue i s = some np ∧ t.pc.toNat = np % 65536 := by
  rw [exec_of_skipCondition hskip] at h
  obtain rfl := Host.Outcome.next.inj h
  refine ⟨_, nextPcValue_of_skipCondition hskip, ?_⟩
  cases c
  · exact word_add_toNat s.pc 2 (by decide)
  · exact word_add_toNat s.pc 4 (by decide)

/-- `FX0A` moves on exactly when it finds a key down (R161). -/
theorem nextPcValue_opFX0A (x : Reg) (s : State) :
    nextPcValue (.opFX0A x) s = some (s.pc.toNat + if (leastKey s.keys).isSome then 2 else 0) := by
  cases hkey : leastKey s.keys with
  | none =>
    have hup := leastKey_none.mp hkey
    exact if_neg fun ⟨k, hk⟩ => Bool.false_ne_true ((hup k).symm.trans hk)
  | some k => exact if_pos ⟨k, (leastKey_some hkey).1⟩

theorem zext12_toNat_mod (nnn : Addr12) : (zext12 nnn).toNat = nnn.toNat % 65536 := by
  rw [zext12_toNat]
  omega

/-- `PC` after an instruction is the value R87 tables, modulo 65536. The instructions are taken by the rows of R87. -/
theorem exec_pc {i : Instr} {s t : State} (h : exec i s = .next t) :
    ∃ np, nextPcValue i s = some np ∧ t.pc.toNat = np % 65536 := by
  cases i with
  | op1NNN nnn =>
    obtain rfl := Host.Outcome.next.inj h
    exact ⟨_, rfl, zext12_toNat_mod nnn⟩
  | op2NNN nnn =>
    obtain ⟨_, _, rfl⟩ := exec2NNN_next h
    exact ⟨_, rfl, zext12_toNat_mod nnn⟩
  | op00EE =>
    obtain ⟨target, _, hpop, rfl⟩ := exec00EE_next h
    obtain ⟨hlt, hsp, rfl, _⟩ := State.pop_spec hpop
    refine ⟨_, ?_, (Nat.mod_eq_of_lt (BitVec.isLt _)).symm⟩
    unfold nextPcValue
    rw [if_neg hsp, Vector.getElem?_eq_getElem hlt, Option.map_some, State.retire_pc]
  | opBNNN nnn =>
    obtain rfl := Host.Outcome.next.inj h
    exact ⟨_, rfl, by rw [State.retire_pc, BitVec.toNat_add, zext8_toNat, zext12_toNat]⟩
  | op3XNN | op4XNN | op5XY0 | op9XY0 | opEX9E | opEXA1 => exact exec_skip_pc rfl h
  | opFX0A x =>
    refine ⟨_, nextPcValue_opFX0A x s, ?_⟩
    obtain ⟨k, hkey, rfl⟩ | ⟨hkey, rfl⟩ := execFX0A_next h
    · rw [hkey]
      exact word_add_toNat s.pc 2 (by decide)
    · rw [hkey]
      exact (Nat.mod_eq_of_lt s.pc.isLt).symm
  | opFX33 =>
    obtain ⟨_, hstore, rfl⟩ := execFX33_next h
    obtain ⟨_, rfl⟩ := State.storeBytes_spec hstore
    exact ⟨_, rfl, word_add_toNat s.pc 2 (by decide)⟩
  | opFX55 =>
    obtain ⟨_, hstore, rfl⟩ := execFX55_next h
    obtain ⟨_, rfl⟩ := State.storeBytes_spec hstore
    exact ⟨_, rfl, word_add_toNat s.pc 2 (by decide)⟩
  | opFX65 =>
    obtain ⟨bs, _, rfl⟩ := execFX65_next h
    rw [State.setRegsFrom_eq]
    exact ⟨_, rfl, word_add_toNat s.pc 2 (by decide)⟩
  | opDXYN =>
    obtain ⟨_, _, rfl⟩ := execDXYN_next h
    exact ⟨_, rfl, word_add_toNat s.pc 2 (by decide)⟩
  | _ =>
    obtain rfl := Host.Outcome.next.inj h
    exact ⟨_, rfl, word_add_toNat s.pc 2 (by decide)⟩

/-- Settles O15: row by row of the table of R87. -/
theorem pcFollowsTheAdvancementPolicy : Obligations.PcFollowsTheAdvancementPolicy := fun _ _ _ => exec_pc

end Sys2Proof.Machine
end

section
/-! Family 40_control_transfer: return, the jumps and the call, and a return after a call (O33 to O37). -/

namespace Sys2Proof.Machine

/-! ## Return -/

theorem exec_op00EE_empty {s : State} (h : s.sp.val = 0) : exec .op00EE s = .fault .stackUnderflow := by
  simp only [exec, exec00EE, State.pop_empty s h, raise]

/-- A return whose top live entry is `k` takes that entry into `PC` and leaves every entry in place (R101, D5). -/
theorem exec_op00EE_live {s : State} {k : Fin 16} (hk : s.sp.val = k.val + 1) :
    exec .op00EE s = .next ((s.setStack k.castSucc s.stk).retire s.stk[k] false) := by
  obtain ⟨hlt, hpop⟩ := State.pop_live s (by omega)
  obtain rfl : k = ⟨s.sp.val - 1, hlt⟩ := Fin.ext (by simp [hk])
  simp only [exec, exec00EE, hpop, State.commit, Fin.castSucc_mk, Fin.getElem_fin]

/-- Settles O33: the entry a return takes is the one below `SP`. -/
theorem returnPopsTheStack : Obligations.ReturnPopsTheStack := by
  refine ⟨words_op00EE, fun s => ⟨exec_op00EE_empty, fun hsp => ?_⟩⟩
  have hlt : s.sp.val - 1 < 16 := by omega
  have hexec := exec_op00EE_live (s := s) (k := ⟨s.sp.val - 1, hlt⟩) (by simp; omega)
  exact ⟨_, hexec, rfl, Vector.getElem?_eq_getElem hlt, rfl, (exec_changesOnly hexec).mono (by decide)⟩

/-! ## Jumps -/

/-- Settles O34: a jump is its commit. -/
theorem jumpSetsPc : Obligations.JumpSetsPc :=
  ⟨words_op1NNN, fun nnn s => ⟨s.retire (zext12 nnn) false, rfl, zext12_toNat nnn, rfl, s.retire_changesOnly _ _⟩⟩

/-- `V[0] + nnn` is at most 0x10FE, below 65536 (R104). -/
theorem zext8_add_zext12_toNat (b : Byte) (nnn : Addr12) : (zext8 b + zext12 nnn).toNat = b.toNat + nnn.toNat := by
  have hb := b.isLt
  have hnnn := nnn.isLt
  rw [BitVec.toNat_add, zext8_toNat, zext12_toNat]
  omega

/-- Settles O36: the commit writes a sum that is not reduced. -/
theorem jumpWithOffsetAddsV0 : Obligations.JumpWithOffsetAddsV0 :=
  ⟨words_opBNNN, fun nnn s => ⟨s.retire (zext8 (s.reg 0) + zext12 nnn) false, rfl,
    zext8_add_zext12_toNat (s.reg 0) nnn, rfl, s.retire_changesOnly _ _⟩⟩

/-! ## Call -/

theorem exec_op2NNN_full {s : State} (nnn : Addr12) (h : s.sp.val = 16) :
    exec (.op2NNN nnn) s = .fault .stackOverflow := by
  simp only [exec, exec2NNN, State.push_full s _ h, raise]

theorem exec_op2NNN_room {s : State} (nnn : Addr12) (h : s.sp.val < 16) : exec (.op2NNN nnn) s =
    .next ((s.setStack ⟨s.sp.val + 1, Nat.succ_lt_succ h⟩ (s.stk.set s.sp.val (s.pc + 2) h)).retire
      (zext12 nnn) false) := by
  simp only [exec, exec2NNN, State.push_room s _ h, State.commit]

/-- A call that completes had room, put the address after it into the first dead entry, and made that entry live (R103,
D4, D5). -/
theorem exec_op2NNN_pushed {nnn : Addr12} {s t : State} (h : exec (.op2NNN nnn) s = .next t) :
    ∃ hlt : s.sp.val < 16, t.sp.val = s.sp.val + 1 ∧ t.stk[s.sp.val] = s.pc + 2 := by
  obtain ⟨_, hpush, rfl⟩ := exec2NNN_next h
  obtain ⟨hlt, rfl⟩ := State.push_spec hpush
  exact ⟨hlt, rfl, Vector.getElem_set_self hlt⟩

/-- Settles O35: a call with room and a call on a full stack. -/
theorem callPushesTheReturnAddress : Obligations.CallPushesTheReturnAddress := by
  refine ⟨words_op2NNN, fun nnn s => ⟨exec_op2NNN_full nnn, fun hsp => ?_⟩⟩
  have hexec := exec_op2NNN_room (s := s) nnn (by omega)
  obtain ⟨hlt, hsp', htop⟩ := exec_op2NNN_pushed hexec
  refine ⟨_, hexec, zext12_toNat nnn, hsp', ?_, fun k hk => exec_stk_frame hexec fun _ _ => hk, rfl,
    (exec_changesOnly hexec).mono (by simp [mayChange])⟩
  rw [Vector.getElem?_eq_getElem hlt, htop, Option.map_some]
  exact congrArg some (word_add_toNat s.pc 2 (by decide))

/-! ## Return after a call -/

/-- Settles O37: the entry the call pushed is on top of the stack, and `Tick`s and keys leave the stack alone. -/
theorem callThenReturnRestoresPc : Obligations.CallThenReturnRestoresPc := by
  intro nnn s t t' hcall hsame
  obtain ⟨hlt, hsp, htop⟩ := exec_op2NNN_pushed hcall
  have hsp' : t'.sp = t.sp := hsame .sp (by decide)
  have htop' : t'.stk[s.sp.val] = s.pc + 2 := (hsame .stk (by decide) ⟨s.sp.val, hlt⟩).trans htop
  refine ⟨_, exec_op00EE_live (k := ⟨s.sp.val, hlt⟩) (hsp' ▸ hsp), ?_, rfl⟩
  calc (t'.stk[s.sp.val]).toNat
    _ = (s.pc + 2).toNat := by rw [htop']
    _ = (s.pc.toNat + 2) % 65536 := word_add_toNat s.pc 2 (by decide)

end Sys2Proof.Machine
end

section
/-! Family 41_skips: the comparisons with an immediate and with a register, and the key tests (O38 to O40). -/

namespace Sys2Proof.Machine

/-- A skip commits, whatever its condition, and moves on by 4 bytes if the condition holds, else by 2 (R110). -/
theorem State.skipIf_forward (s : State) (c : Bool) :
    ∃ t, s.skipIf c = .next t ∧ PcForward (if c then 4 else 2) s t ∧ ChangesOnly [.pc, .reply] s t := by
  refine ⟨_, rfl, ⟨?_, rfl⟩, s.retire_changesOnly _ _⟩
  cases c
  · exact word_add_toNat s.pc 2 (by decide)
  · exact word_add_toNat s.pc 4 (by decide)

/-- A conditional skip does what R110 says of a skip, on the condition `p` that its own rule (R111 to R116) names. -/
theorem exec_skip_forward {i : Instr} {s : State} {p : Prop} [Decidable p]
    (h : skipCondition i s = some (decide p)) :
    ∃ t, exec i s = .next t ∧ PcForward (if p then 4 else 2) s t ∧ ChangesOnly [.pc, .reply] s t := by
  rw [exec_of_skipCondition h]
  simpa only [decide_eq_true_eq] using s.skipIf_forward (decide p)

/-- Settles O38: `skipCondition` names the comparison with `nn`. -/
theorem skipsComparingWithImmediate : Obligations.SkipsComparingWithImmediate :=
  ⟨words_op3XNN, words_op4XNN, fun _ _ _ => ⟨exec_skip_forward rfl, exec_skip_forward rfl⟩⟩

/-- Settles O39: `skipCondition` names the comparison of the two registers. -/
theorem skipsComparingRegisters : Obligations.SkipsComparingRegisters :=
  ⟨words_op5XY0, words_op9XY0, fun _ _ _ => ⟨exec_skip_forward rfl, exec_skip_forward rfl⟩⟩

/-- Settles O40: the key `k` is the one the low four bits of `V[x]` select, and `skipCondition` looks at that key. -/
theorem skipsTestingAKey : Obligations.SkipsTestingAKey := by
  refine ⟨words_opEX9E, words_opEXA1, fun x s k hk => ?_⟩
  have hkey : s.keys[(s.reg x).toNat % 16]? = some s.keys[k] := by
    rw [← hk]
    exact Vector.getElem?_eq_getElem k.isLt
  constructor
  · exact exec_skip_forward (by simp only [skipCondition, hkey, Option.some.injEq])
  · exact exec_skip_forward (by simp only [skipCondition, hkey, Option.some.injEq])

end Sys2Proof.Machine
end

section
/-! Family 42_alu: the loads, the arithmetic, the logic, the shifts and the random byte (O41 to O48). -/

namespace Sys2Proof.Machine

/-! ## What an instruction of this family leaves -/

theorem State.retire_forward (s : State) : PcForward 2 s (s.retire (s.pc + 2) false) :=
  ⟨word_add_toNat s.pc 2 (by decide), rfl⟩

/-- One register written, no flag: any other register, `VF` among them, keeps its value (D8). -/
theorem State.setReg_advance (s : State) (x : Reg) (b : Byte) :
    ∃ t, (s.setReg x b).advance = .next t ∧ t.reg x = b ∧ OtherRegsSame [x] s t ∧ PcForward 2 s t ∧
      ChangesOnly [.regs, .pc, .reply] s t :=
  ⟨_, rfl, s.reg_setReg_same x b, fun _ hr => s.reg_setReg_other b (List.ne_of_not_mem_cons hr),
    (s.setReg x b).retire_forward, ((s.setReg_changesOnly x b).retire _ _).mono (by decide)⟩

/-- A register written with a byte whose bits are known. -/
theorem State.setReg_advance_bits {s : State} {x : Reg} {b : Byte} {f : Nat → Bool} (hb : ∀ k, b.getLsbD k = f k) :
    ∃ t, (s.setReg x b).advance = .next t ∧ (∀ k, (t.reg x).getLsbD k = f k) ∧ OtherRegsSame [x] s t ∧
      PcForward 2 s t ∧ ChangesOnly [.regs, .pc, .reply] s t := by
  obtain ⟨t, hexec, rfl, hframe⟩ := s.setReg_advance x b
  exact ⟨t, hexec, hb, hframe⟩

theorem flag_toNat (c : Bool) : (if c then 1 else 0 : Byte).toNat = c.toNat := by
  cases c <;> rfl

/-- A result of value `n` and after it a flag of value `m`: `VF` holds the flag whatever `x` is, and `V[x]` the result
unless `x = 15` (R120, D7). -/
theorem State.setRegFlag_advance {s : State} {x : Reg} {b : Byte} {c : Bool} {n m : Nat} (hb : b.toNat = n)
    (hc : c.toNat = m) :
    ∃ t, (s.setRegFlag x b c).advance = .next t ∧ (x ≠ vf → (t.reg x).toNat = n) ∧ (t.reg vf).toNat = m ∧
      OtherRegsSame [x, vf] s t ∧ PcForward 2 s t ∧ ChangesOnly [.regs, .pc, .reply] s t := by
  refine ⟨_, rfl, fun hx => ?_, ?_, fun r hr => ?_, (s.setRegFlag x b c).retire_forward,
    ((s.setRegFlag_changesOnly x b c).retire _ _).mono (by decide)⟩
  · rw [State.reg_retire, State.reg_setRegFlag, if_neg hx, if_pos rfl, hb]
  · rw [State.reg_retire, State.reg_setRegFlag, if_pos rfl, flag_toNat, hc]
  · obtain ⟨hrx, hrvf⟩ : r ≠ x ∧ r ≠ vf := by simpa using hr
    rw [State.reg_retire, State.reg_setRegFlag, if_neg hrvf, if_neg hrx]

/-! ## Instructions that write one register and no flag -/

/-- Settles O41: the byte written is the operand. -/
theorem loadsWriteTheirOperand : Obligations.LoadsWriteTheirOperand :=
  ⟨words_op6XNN, words_op8XY0, fun x nn s => s.setReg_advance x nn, fun x y s => s.setReg_advance x (s.reg y)⟩

/-- Settles O42: the sum of two bytes wraps at 256. -/
theorem addImmediateWrapsWithoutFlag : Obligations.AddImmediateWrapsWithoutFlag := by
  refine ⟨words_op7XNN, fun x nn s => ?_⟩
  obtain ⟨t, hexec, hx, hframe⟩ := s.setReg_advance x (s.reg x + nn)
  exact ⟨t, hexec, by rw [hx, BitVec.toNat_add], hframe⟩

/-- Settles O43: each bit of the byte written is the operation on the two bits. -/
theorem logicIsBitwiseWithoutFlag : Obligations.LogicIsBitwiseWithoutFlag :=
  ⟨words_op8XY1, words_op8XY2, words_op8XY3, fun _ _ _ =>
    ⟨State.setReg_advance_bits fun _ => BitVec.getLsbD_or, State.setReg_advance_bits fun _ => BitVec.getLsbD_and,
      State.setReg_advance_bits fun _ => BitVec.getLsbD_xor⟩⟩

/-! ## Instructions that set the flag -/

theorem carry_toNat (a b : Byte) : (carry a b).toNat = if a.toNat + b.toNat > 255 then 1 else 0 :=
  Bool.cond_decide _ _ _

theorem noBorrow_toNat (a b : Byte) : (noBorrow a b).toNat = if a.toNat ≥ b.toNat then 1 else 0 :=
  Bool.cond_decide _ _ _

theorem lowBit_toNat (a : Byte) : (lowBit a).toNat = a.toNat % 2 := by
  rcases Nat.mod_two_eq_zero_or_one a.toNat with h | h
  · simp [lowBit, h]
  · simp [lowBit, h]

theorem highBit_toNat (a : Byte) : (highBit a).toNat = a.toNat / 128 := by
  have hlt := a.isLt
  obtain h | h : a.toNat / 128 = 0 ∨ a.toNat / 128 = 1 := by omega
  · simp [highBit, h]
  · simp [highBit, h]

theorem byte_sub_toNat (a b : Byte) : (a - b).toNat = (a.toNat + 256 - b.toNat) % 256 := by
  have hb := b.isLt
  rw [BitVec.toNat_sub]
  omega

theorem byte_shiftRight_one_toNat (a : Byte) : (a >>> 1).toNat = a.toNat / 2 := by
  rw [BitVec.toNat_ushiftRight, Nat.shiftRight_one]

theorem byte_shiftLeft_one_toNat (a : Byte) : (a <<< 1).toNat = 2 * a.toNat % 256 := by
  rw [BitVec.toNat_shiftLeft, Nat.shiftLeft_eq, Nat.pow_one, Nat.mul_comm]

/-- Settles O44: the sum wraps at 256, and the carry is that it would not fit. -/
theorem addRegistersSetsCarry : Obligations.AddRegistersSetsCarry :=
  ⟨words_op8XY4, fun x y s => State.setRegFlag_advance (BitVec.toNat_add (s.reg x) (s.reg y)) (carry_toNat _ _)⟩

/-- Settles O45: the difference wraps at 256, and no-borrow is that it is not negative. -/
theorem subtractRegistersSetsNoBorrow : Obligations.SubtractRegistersSetsNoBorrow :=
  ⟨words_op8XY5, fun _ _ _ => State.setRegFlag_advance (byte_sub_toNat _ _) (noBorrow_toNat _ _)⟩

/-- Settles O46: by D9 `8XY7` does what `8XY5` does, and the integer difference says the same as the wrapped one. -/
theorem subtractSevenSubtractsVyFromVx : Obligations.SubtractSevenSubtractsVyFromVx := by
  refine ⟨words_op8XY7, fun x y s => ?_⟩
  obtain ⟨t, hexec, hdiff, hflag, hframe⟩ := subtractRegistersSetsNoBorrow.2 x y s
  have hy := (s.reg y).isLt
  refine ⟨t, hexec, fun hx => ?_, ?_, hframe⟩
  · have hx' := hdiff hx
    omega
  · rcases Nat.lt_or_ge (s.reg x).toNat (s.reg y).toNat with hborrow | hfits
    · rw [hflag, if_neg (by omega), if_pos (by omega)]
    · rw [hflag, if_pos hfits, if_neg (by omega)]

/-- Settles O47: a shift by one halves or doubles, and the flag is the bit that falls out. -/
theorem shiftsByOneSetTheBitShiftedOut : Obligations.ShiftsByOneSetTheBitShiftedOut :=
  ⟨words_op8XY6, words_op8XYE, fun _ _ _ =>
    ⟨State.setRegFlag_advance (byte_shiftRight_one_toNat _) (lowBit_toNat _),
      State.setRegFlag_advance (byte_shiftLeft_one_toNat _) (highBit_toNat _)⟩⟩

/-! ## The random byte -/

/-- Settles O48: the mask clears every bit that is 0 in `nn`, whatever byte is drawn (D19). -/
theorem randomIsMaskedByNn : Obligations.RandomIsMaskedByNn := by
  refine ⟨words_opCXNN, fun x nn s => ?_⟩
  obtain ⟨t, hexec, hx, hother, hpc, hchanges⟩ := s.useDraw.setReg_advance x (Config.rand8 s.draws &&& nn)
  have hdraws : t.draws = s.useDraw.draws := hchanges .draws (by decide)
  refine ⟨t, hexec, hx, hdraws, fun k hk => ?_, hother, hpc, ?_⟩
  · rw [hx, BitVec.getLsbD_and, hk, Bool.and_false]
  · exact (s.useDraw_changesOnly.mono (by decide)).trans (hchanges.mono (by decide))

end Sys2Proof.Machine
end

section
/-! Family 43_index_memory: the index loads, the digits and the register block stored to memory, and the block loaded back (O49 to O54). -/

namespace Sys2Proof.Machine

/-! ## The index register -/

/-- `I` written with a word of value `n`, and nothing else: no flag among it (D8). -/
theorem State.setI_advance {s : State} {w : Word} {n : Nat} (hw : w.toNat = n) :
    ∃ t, (s.setI w).advance = .next t ∧ t.i.toNat = n ∧ PcForward 2 s t ∧ ChangesOnly [.index, .pc, .reply] s t :=
  ⟨_, rfl, hw, (s.setI w).retire_forward, ((s.setI_changesOnly w).retire _ _).mono (by decide)⟩

/-- The last glyph begins at 75, so the address fits in `I` (R142). -/
theorem glyphAddress_toNat (b : Byte) : (glyphAddress b).toNat = 5 * (b.toNat % 16) := by
  rw [glyphAddress, BitVec.toNat_ofNat, Config.glyphStride]
  omega

/-- Settles O49: the word written to `I` is the operand, or the glyph address. -/
theorem indexLoads : Obligations.IndexLoads :=
  ⟨words_opANNN, words_opFX29, fun nnn _ => State.setI_advance (zext12_toNat nnn),
    fun _ _ => State.setI_advance (glyphAddress_toNat _)⟩

/-- Settles O50: the sum of two words wraps at 65536. -/
theorem addToIndexWrapsWithoutFlag : Obligations.AddToIndexWrapsWithoutFlag :=
  ⟨words_opFX1E, fun x s => State.setI_advance (by rw [BitVec.toNat_add, zext8_toNat])⟩

/-! ## Stores at `I` -/

/-- A store that fits, whatever its bytes, moves on to the next instruction and leaves `I` as it was (D11). -/
theorem State.putBytes_retire_frame (s : State) (a : Nat) (bs : List Byte) :
    PcForward 2 s ((s.putBytes a bs).retire (s.pc + 2) false) ∧
      ChangesOnly [.memory, .pc, .reply] s ((s.putBytes a bs).retire (s.pc + 2) false) :=
  ⟨(s.putBytes a bs).retire_forward, ((s.putBytes_changesOnly a bs).retire _ _).mono (by decide)⟩

theorem exec_opFX33_outOfBounds {x : Reg} {s : State} (h : s.base + 2 > 4095) :
    exec (.opFX33 x) s = .fault .outOfBounds := by
  have hlen : (bcdDigits (s.reg x)).length = 3 := rfl
  rw [exec, execFX33, s.storeBytes_error (by omega)]
  rfl

theorem exec_opFX55_outOfBounds {x : Reg} {s : State} (h : s.base + x.toNat > 4095) :
    exec (.opFX55 x) s = .fault .outOfBounds := by
  have hlen := s.length_regsUpTo x
  rw [exec, execFX55, s.storeBytes_error (by omega)]
  rfl

/-- Each digit is below 10, so its byte has the digit's value (R143). -/
theorem State.byteAt_putBytes_bcdDigits (s : State) (a : Nat) (b : Byte) :
    ((s.putBytes a (bcdDigits b)).byteAt a).toNat = b.toNat / 100 ∧
      ((s.putBytes a (bcdDigits b)).byteAt (a + 1)).toNat = b.toNat / 10 % 10 ∧
      ((s.putBytes a (bcdDigits b)).byteAt (a + 2)).toNat = b.toNat % 10 := by
  have hb := b.isLt
  have hdigit {k : Nat} (hk : k < 3) : (s.putBytes a (bcdDigits b)).byteAt (a + k) = (bcdDigits b)[k] :=
    s.byteAt_putBytes_inside hk
  have hhundreds := hdigit (k := 0) (by decide)
  rw [Nat.add_zero] at hhundreds
  rw [hhundreds, hdigit (k := 1) (by decide), hdigit (k := 2) (by decide)]
  simp only [bcdDigits, List.getElem_cons_zero, List.getElem_cons_succ, BitVec.toNat_ofNat]
  omega

/-- Settles O51: the three digits are one run of bytes, stored whole or not at all. -/
theorem bcdStoresThreeDigits : Obligations.BcdStoresThreeDigits := by
  refine ⟨words_opFX33, fun x s => ⟨exec_opFX33_outOfBounds, fun hbound => ?_⟩⟩
  have hexec := exec_opFX33_inBounds (x := x) hbound
  obtain ⟨hhundreds, htens, hones⟩ := s.byteAt_putBytes_bcdDigits s.base (s.reg x)
  exact ⟨_, hexec, hhundreds, htens, hones, fun _ => exec_byteAt_frame hexec, s.putBytes_retire_frame _ _⟩

theorem State.byteAt_putBytes_regsUpTo (s : State) {x k : Reg} (a : Nat) (hk : k.toNat ≤ x.toNat) :
    (s.putBytes a (s.regsUpTo x)).byteAt (a + k.toNat) = s.reg k := by
  have hlen := s.length_regsUpTo x
  rw [s.byteAt_putBytes_inside (by omega), State.getElem_regsUpTo, BitVec.ofNat_toNat, BitVec.setWidth_eq]

/-- Settles O52: the registers are one run of bytes, stored whole or not at all. -/
theorem storeRegistersCopiesTheBlock : Obligations.StoreRegistersCopiesTheBlock := by
  refine ⟨words_opFX55, fun x s => ⟨exec_opFX55_outOfBounds, fun hbound => ?_⟩⟩
  have hexec := exec_opFX55_inBounds hbound
  exact ⟨_, hexec, fun _ => s.byteAt_putBytes_regsUpTo s.base, fun _ => exec_byteAt_frame hexec,
    s.putBytes_retire_frame _ _⟩

/-! ## The block loaded from `I` -/

@[simp] theorem State.setRegsFrom_pc (s : State) (k : Nat) (bs : List Byte) : (s.setRegsFrom k bs).pc = s.pc := by
  rw [State.setRegsFrom_eq, State.setV_pc]

theorem exec_opFX65_outOfBounds {x : Reg} {s : State} (h : s.base + x.toNat > 4095) :
    exec (.opFX65 x) s = .fault .outOfBounds := by
  rw [exec, execFX65, s.loadBytes_error (by omega)]
  rfl

theorem exec_opFX65_inBounds {x : Reg} {s : State} (h : s.base + x.toNat ≤ 4095) :
    exec (.opFX65 x) s = .next ((s.setRegsFrom 0 (s.bytesAt s.base (x.toNat + 1))).retire (s.pc + 2) false) := by
  rw [exec, execFX65, s.loadBytes_ok (by omega)]
  simp only [State.advance, State.commit, State.setRegsFrom_pc]

/-- Register `k` after loading `n` bytes from register 0 on: the byte at `a + k` if the run reaches it. -/
theorem State.reg_setRegsFrom_bytesAt (s : State) (a n : Nat) (k : Reg) :
    (s.setRegsFrom 0 (s.bytesAt a n)).reg k = if k.toNat < n then s.byteAt (a + k.toNat) else s.reg k := by
  rw [State.reg_setRegsFrom, if_pos (Nat.zero_le _), Nat.sub_zero]
  have hlen := s.length_bytesAt a n
  split
  · rw [List.getD_eq_getElem _ _ (by omega), State.getElem_bytesAt]
  · exact List.getD_eq_default _ _ (by omega)

/-- Settles O53: the bytes are read as one run, whole or not at all, before a register is written. -/
theorem loadRegistersCopiesTheBlock : Obligations.LoadRegistersCopiesTheBlock := by
  refine ⟨words_opFX65, fun x s => ⟨exec_opFX65_outOfBounds, fun hbound => ?_⟩⟩
  have hexec := exec_opFX65_inBounds hbound
  refine ⟨_, hexec, fun k hk => ?_, fun k hk => ?_, s.retire_forward,
    (exec_changesOnly hexec).mono (by simp [mayChange])⟩
  · rw [State.reg_retire, State.reg_setRegsFrom_bytesAt, if_pos (by omega)]
  · rw [State.reg_retire, State.reg_setRegsFrom_bytesAt, if_neg (by omega)]

/-! ## A dump and a reload -/

/-- A dump that completes did not run past the end of memory. -/
theorem exec_opFX55_next_bound {x : Reg} {s t : State} (h : exec (.opFX55 x) s = .next t) :
    s.base + x.toNat ≤ 4095 := by
  by_contra hout
  rw [exec_opFX55_outOfBounds (by omega)] at h
  cases h

/-- Settles O54: the dump leaves the block at `I` and `I` itself (D11), `Tick`s and keys leave both alone, and so the
reload reads back what the dump stored. -/
theorem dumpThenReloadRestoresRegisters : Obligations.DumpThenReloadRestoresRegisters := by
  intro x s t t' hdump hsame
  have hbound := exec_opFX55_next_bound hdump
  obtain ⟨_, hdump', hstored, -, -, hkept⟩ := (storeRegistersCopiesTheBlock.2 x s).2 hbound
  obtain rfl := Host.Outcome.next.inj (hdump.symm.trans hdump')
  have hi : t'.i = s.i := (hsame .index (by decide)).trans (hkept .index (by decide))
  have hregs : ∀ r, t'.reg r = s.reg r := fun r => (hsame .regs (by decide) r).trans (hkept .regs (by decide) r)
  have hbase : t'.base = s.base := congrArg BitVec.toNat hi
  have hblock : ∀ k : Reg, k.toNat ≤ x.toNat → t'.byteAt (s.base + k.toNat) = s.reg k :=
    fun k hk => (hsame .memory (by decide) _).trans (hstored k hk)
  obtain ⟨u, hload, hloaded, hother, -, hkept'⟩ := (loadRegistersCopiesTheBlock.2 x t').2 (by rwa [hbase])
  rw [hbase] at hloaded
  refine ⟨u, hload, fun r => ?_, (hkept' .index (by decide)).trans hi,
    fun k hk => (hkept' .memory (by decide) _).trans (hblock k hk)⟩
  rcases Nat.lt_or_ge x.toNat r.toNat with habove | hin
  · exact (hother r habove).trans (hregs r)
  · exact (hloaded r hin).trans (hblock r hin)

end Sys2Proof.Machine
end

section
/-! Family 44_display: `dirty`, the cleared screen, a drawn sprite, and a sprite drawn twice (O25, O55 to O57). -/

namespace Sys2Proof.Machine

/-! ## When a `Step` reports `dirty` -/

/-- An instruction that completes reports `dirty = 1` exactly when it is one of the two that draw (R153, D15). -/
theorem exec_dirty {i : Instr} {s t : State} (h : exec i s = .next t) :
    t.reply.dirty = true ↔ i = .op00E0 ∨ ∃ x y n, i = .opDXYN x y n := by
  cases i with
  | opDXYN x y n =>
    obtain ⟨_, _, rfl⟩ := execDXYN_next h
    exact ⟨fun _ => .inr ⟨x, y, n, rfl⟩, fun _ => rfl⟩
  | op00E0 =>
    obtain rfl := Host.Outcome.next.inj h
    exact ⟨fun _ => .inl rfl, fun _ => rfl⟩
  | op00EE =>
    obtain ⟨_, _, _, rfl⟩ := exec00EE_next h
    simp
  | op2NNN =>
    obtain ⟨_, _, rfl⟩ := exec2NNN_next h
    simp
  | opFX0A =>
    obtain ⟨_, _, rfl⟩ | ⟨_, rfl⟩ := execFX0A_next h
    · simp
    · simp
  | opFX33 =>
    obtain ⟨_, _, rfl⟩ := execFX33_next h
    simp
  | opFX55 =>
    obtain ⟨_, _, rfl⟩ := execFX55_next h
    simp
  | opFX65 =>
    obtain ⟨_, _, rfl⟩ := execFX65_next h
    simp
  | _ =>
    obtain rfl := Host.Outcome.next.inj h
    simp [State.retire]

theorem awaitKey_dirty {s t : State} (h : awaitKey s = .next t) : t.reply.dirty = false := by
  obtain ⟨_, _, rfl⟩ | ⟨_, rfl⟩ := awaitKey_next h
  · rfl
  · rfl

/-- A `Step` that completes draws exactly when no key is awaited and the instruction fetched is one that draws. -/
theorem stepInstruction_dirty {s t : State} (h : stepInstruction s = .next t) :
    t.reply.dirty = true ↔ s.await = false ∧ ∃ w i, s.fetch = .ok w ∧ decode w = .ok i ∧
      (i = .op00E0 ∨ ∃ x y n, i = .opDXYN x y n) := by
  obtain ⟨hawait, hkey⟩ | ⟨hidle, w, i, hfetch, hdecode, hexec⟩ := stepInstruction_next h
  · simp [awaitKey_dirty hkey, hawait]
  · simp [exec_dirty hexec, hidle, hfetch, hdecode]

/-- A `Step` that completes is not refused, so the keys were sampled and the sequence of R86 ran. -/
theorem perform_step_next {s t : State} {keys : KeyVector} (h : perform (.step keys) s = .next t) :
    stepInstruction (s.setKeys keys) = .next t := by
  obtain ⟨hreset, -⟩ | ⟨_, ⟨_, hload, -⟩ | ⟨_, hstep, hrun⟩ | ⟨htick, -⟩ | ⟨_, hread, -⟩⟩ := perform_next h
  · cases hreset
  · cases hload
  · obtain rfl := Command.step.inj hstep
    exact hrun
  · cases htick
  · cases hread

/-- Settles O25: the keys are not fetched, and a fault's reply carries the error alone. -/
theorem dirtyMeansADrawCompleted : Obligations.DirtyMeansADrawCompleted := by
  refine ⟨fun s _ keys h => stepInstruction_dirty (s := s.setKeys keys) (perform_step_next h), fun s keys f h => ?_⟩
  rw [respond, h, State.setReply_reply]

/-! ## The cleared screen -/

/-- Settles O55: the framebuffer written is dark in every cell. -/
theorem clearScreenClearsEveryCell : Obligations.ClearScreenClearsEveryCell :=
  ⟨words_op00E0, fun s => ⟨_, rfl, fun _ => Vector.getElem_replicate _, word_add_toNat s.pc 2 (by decide), rfl,
    ((s.setFb_changesOnly _).retire _ _).mono (by decide)⟩⟩

/-! ## One draw -/

/-- The framebuffer and the collision after drawing the `n` bytes at `I` at (`V[x]`, `V[y]`) (R151). -/
def State.drawnSprite (s : State) (x y : Reg) (n : Nibble) : Framebuffer × Bool :=
  drawSprite (s.fb, false) (s.reg x).toNat (s.reg y).toNat (s.bytesAt s.base n.toNat)

theorem exec_opDXYN_outOfBounds {x y : Reg} {n : Nibble} {s : State}
    (h : n.toNat > 0 ∧ s.i.toNat + n.toNat - 1 > 4095) : exec (.opDXYN x y n) s = .fault .outOfBounds := by
  have hout : ¬ (n.toNat = 0 ∨ s.base + n.toNat ≤ 4096) := by rw [State.base]; omega
  rw [exec, execDXYN, s.loadBytes_error hout]
  rfl

theorem exec_opDXYN_inBounds {x y : Reg} {n : Nibble} {s : State}
    (h : n.toNat = 0 ∨ s.i.toNat + n.toNat - 1 ≤ 4095) :
    exec (.opDXYN x y n) s = .next
      (((s.setFb (s.drawnSprite x y n).1).setFlag (s.drawnSprite x y n).2).retire (s.pc + 2) true) := by
  have hin : n.toNat = 0 ∨ s.base + n.toNat ≤ 4096 := by rw [State.base]; omega
  rw [exec, execDXYN, s.loadBytes_ok hin]
  rfl

/-- A sprite has at most 15 rows, so none wraps onto another. -/
theorem length_sprite_le (s : State) (a : Nat) (n : Nibble) : (s.bytesAt a n.toNat).length ≤ 32 := by
  have := n.isLt
  rw [State.length_bytesAt]
  omega

/-- A draw inverts the cells the sprite lights (R151, D12 to D14). -/
theorem State.drawnSprite_cell (s : State) (x y : Reg) (n : Nibble) (c : Fin 2048) :
    (s.drawnSprite x y n).1[c] = true ↔
      Xor (s.fb[c] = true) (spriteLights s (s.reg x).toNat (s.reg y).toNat n.toNat c.val) := by
  have hcell := drawSprite_cell (s.fb, false) (s.reg x).toNat (s.reg y).toNat (length_sprite_le s s.base n) c
  rw [← mem_spriteCells_iff_lights]
  by_cases hc : c ∈ spriteCells (s.reg x).toNat (s.reg y).toNat (s.bytesAt s.base n.toNat)
  · rw [if_pos hc] at hcell
    simp [State.drawnSprite, hcell, hc, Xor]
  · rw [if_neg hc] at hcell
    simp [State.drawnSprite, hcell, hc, Xor]

/-- A draw collides when the sprite lights a cell that was lit (R151). -/
theorem State.drawnSprite_hit (s : State) (x y : Reg) (n : Nibble) :
    (s.drawnSprite x y n).2 = true ↔
      ∃ c : Fin 2048, s.fb[c] = true ∧ spriteLights s (s.reg x).toNat (s.reg y).toNat n.toNat c.val := by
  rw [State.drawnSprite, drawSprite_hit _ _ _ (length_sprite_le s s.base n)]
  simp [mem_spriteCells_iff_lights, and_comm]

theorem flag_eq_one_iff (c : Bool) : (if c then 1 else 0 : Byte) = 1 ↔ c = true := by
  cases c <;> decide

theorem flag_eq_zero_or_one (c : Bool) : (if c then 1 else 0 : Byte) = 0 ∨ (if c then 1 else 0 : Byte) = 1 := by
  cases c <;> decide

/-- Settles O56: the sprite is read whole or not at all, and no cell is inverted twice. -/
theorem drawXorsTheSprite : Obligations.DrawXorsTheSprite := by
  refine ⟨words_opDXYN, fun x y n s => ⟨exec_opDXYN_outOfBounds, fun hbound => ?_⟩⟩
  have hexec := exec_opDXYN_inBounds (x := x) (y := y) hbound
  refine ⟨_, hexec, s.drawnSprite_cell x y n, ?_, ?_, fun r hr => ?_, word_add_toNat s.pc 2 (by decide), rfl,
    (exec_changesOnly hexec).mono (by simp [mayChange])⟩
  · rw [State.reg_retire, State.reg_vf_setFlag, flag_eq_one_iff, s.drawnSprite_hit]
  · rw [State.reg_retire, State.reg_vf_setFlag]
    exact flag_eq_zero_or_one _
  · exact exec_reg_frame hexec List.not_mem_nil fun _ => List.ne_of_not_mem_cons hr

/-! ## A second draw -/

/-- A draw that completes did not run past the end of memory. -/
theorem exec_opDXYN_next_bound {x y : Reg} {n : Nibble} {s t : State} (h : exec (.opDXYN x y n) s = .next t) :
    n.toNat = 0 ∨ s.i.toNat + n.toNat - 1 ≤ 4095 := by
  by_contra hout
  rw [exec_opDXYN_outOfBounds (by omega)] at h
  cases h

theorem spriteLights_congr {s t : State} (hi : t.i = s.i) (hm : ∀ a, t.byteAt a = s.byteAt a) (col row n cell : Nat) :
    spriteLights t col row n cell ↔ spriteLights s col row n cell := by
  simp only [spriteLights, State.base, hi, hm]

/-- Inverting twice gives back what was there. -/
theorem xor_xor_cancel_right (p q : Prop) : Xor (Xor p q) q ↔ p := by
  by_cases hq : q
  · simp [hq, Xor]
  · simp [hq, Xor]

/-- What is inverted is set exactly when it was clear. -/
theorem xor_and_right_iff (p q : Prop) : Xor p q ∧ q ↔ ¬ p ∧ q :=
  and_congr_left fun hq => by simp [hq, Xor]

/-- Settles O57: the second draw finds the same sprite at the same place (`I` and the sprite's bytes are kept, and the
coordinates are not in `VF`), so it inverts the same cells again, and it meets a lit cell where the first met a dark one. -/
theorem drawingTwiceRestoresTheFramebuffer : Obligations.DrawingTwiceRestoresTheFramebuffer := by
  intro x y n s t t' hx hy hdraw hsame
  have hbound := exec_opDXYN_next_bound hdraw
  obtain ⟨_, hdraw', hcell, -, -, hregs, -, -, hkept⟩ := (drawXorsTheSprite.2 x y n s).2 hbound
  obtain rfl := Host.Outcome.next.inj (hdraw.symm.trans hdraw')
  have hi : t'.i = s.i := (hsame .index (by decide)).trans (hkept .index (by decide))
  have hmem : ∀ a, t'.byteAt a = s.byteAt a :=
    fun a => (hsame .memory (by decide) a).trans (hkept .memory (by decide) a)
  have hcol : t'.reg x = s.reg x := (hsame .regs (by decide) x).trans (hregs x (by simpa using hx))
  have hrow : t'.reg y = s.reg y := (hsame .regs (by decide) y).trans (hregs y (by simpa using hy))
  have hlit := fun c : Fin 2048 => (Bool.eq_iff_iff.mp (hsame .display (by decide) c)).trans (hcell c)
  obtain ⟨u, hdraw₂, hcell₂, hflag₂, -⟩ := (drawXorsTheSprite.2 x y n t').2 (by rwa [hi])
  simp only [hcol, hrow, spriteLights_congr hi hmem, hlit, xor_xor_cancel_right] at hcell₂
  simp only [hcol, hrow, spriteLights_congr hi hmem, hlit, xor_and_right_iff, Bool.not_eq_true] at hflag₂
  exact ⟨u, hdraw₂, fun c => Bool.eq_iff_iff.mpr (hcell₂ c), hflag₂⟩

end Sys2Proof.Machine
end

section
/-! Family 45_timers_keys: the timer instructions and the key wait, `Tick` and the beep, and the `Step` that awaits a key (O13, O14, O26, O27, O58, O59). -/

namespace Sys2Proof.Machine

/-! ## The timer instructions -/

theorem State.setDT_advance (s : State) (b : Byte) :
    ∃ t, (s.setDT b).advance = .next t ∧ t.dt = b ∧ PcForward 2 s t ∧ ChangesOnly [.delay, .pc, .reply] s t :=
  ⟨_, rfl, rfl, (s.setDT b).retire_forward, ((s.setDT_changesOnly b).retire _ _).mono (by decide)⟩

theorem State.setST_advance (s : State) (b : Byte) :
    ∃ t, (s.setST b).advance = .next t ∧ t.st = b ∧ PcForward 2 s t ∧ ChangesOnly [.sound, .pc, .reply] s t :=
  ⟨_, rfl, rfl, (s.setST b).retire_forward, ((s.setST_changesOnly b).retire _ _).mono (by decide)⟩

/-- Settles O58: each of the three is one write and the move to the next instruction. -/
theorem timerInstructionsMoveTheTimers : Obligations.TimerInstructionsMoveTheTimers :=
  ⟨words_opFX07, words_opFX15, words_opFX18, fun x s =>
    ⟨s.setReg_advance x s.dt, s.setDT_advance (s.reg x), s.setST_advance (s.reg x)⟩⟩

/-! ## The key wait -/

theorem keyByte_toNat (k : Fin 16) : (keyByte k).toNat = k.val := by
  rw [keyByte, BitVec.toNat_ofNat]
  omega

/-- `FX0A` with a key down (R161). -/
theorem exec_opFX0A_key {x : Reg} {s : State} {k : Fin 16} (h : leastKey s.keys = some k) :
    exec (.opFX0A x) s = (s.setReg x (keyByte k)).advance := by
  rw [exec, execFX0A, h]

/-- `FX0A` with no key down (R161). -/
theorem exec_opFX0A_noKey {x : Reg} {s : State} (h : leastKey s.keys = none) :
    exec (.opFX0A x) s = (s.setAwait true x).commit s.pc false := by
  rw [exec, execFX0A, h]

/-- A commit that leaves `PC` where it is changes the result alone. -/
theorem State.retire_here_changesOnly (s : State) (d : Bool) : ChangesOnly [.reply] s (s.retire s.pc d) := by
  intro p hp
  cases p <;> simp [Part.same] at hp ⊢

/-- Settles O59: the premises of the two clauses are the two answers of `leastKey`. -/
theorem keyWaitTakesAKeyOrAwaits : Obligations.KeyWaitTakesAKeyOrAwaits := by
  refine ⟨words_opFX0A, fun x s => ⟨fun k hdown hleast => ?_, fun hup => ?_⟩⟩
  · rw [exec_opFX0A_key (leastKey_of_least hdown hleast)]
    obtain ⟨t, hexec, hx, hframe⟩ := s.setReg_advance x (keyByte k)
    exact ⟨t, hexec, by rw [hx, keyByte_toNat], hframe⟩
  · rw [exec_opFX0A_noKey (leastKey_none.mpr hup)]
    exact ⟨_, rfl, rfl, rfl, rfl, ((s.setAwait_changesOnly true x).mono (by decide)).trans
      (((s.setAwait true x).retire_here_changesOnly false).mono (by decide))⟩

/-! ## The `Step` that awaits a key -/

theorem State.setKeys_changesOnly (s : State) (keys : KeyVector) : ChangesOnly [.keys] s (s.setKeys keys) := by
  intro p hp
  cases p <;> simp [Part.same] at hp ⊢

theorem State.setReg_setAwait_changesOnly (s : State) (x : Reg) (b : Byte) (a : Bool) :
    ChangesOnly [.regs, .awaiting] s ((s.setReg x b).setAwait a x) :=
  ((s.setReg_changesOnly x b).mono (by decide)).trans (((s.setReg x b).setAwait_changesOnly a x).mono (by decide))

/-- An awaiting `Step` with a key down (R162). -/
theorem awaitKey_key {s : State} {k : Fin 16} (h : leastKey s.keys = some k) :
    awaitKey s = ((s.setReg s.awaitX (keyByte k)).setAwait false s.awaitX).advance := by
  rw [awaitKey, h]

/-- An awaiting `Step` with no key down (R162). -/
theorem awaitKey_noKey {s : State} (h : leastKey s.keys = none) : awaitKey s = s.commit s.pc false := by
  rw [awaitKey, h]

theorem perform_step_awaiting {s : State} (hreset : s.resetDone = true) (hawait : s.await = true) (keys : KeyVector) :
    perform (.step keys) s = awaitKey (s.setKeys keys) :=
  (perform_step hreset keys).trans (stepInstruction_awaiting hawait)

/-- Settles O13: the premises of the two clauses are the two answers of `leastKey` on the keys sampled. -/
theorem awaitingStepChecksTheKeys : Obligations.AwaitingStepChecksTheKeys := by
  intro s keys hreset hawait
  rw [perform_step_awaiting hreset hawait]
  refine ⟨fun k hdown hleast => ?_, fun hup => ?_⟩
  · rw [awaitKey_key (s := s.setKeys keys) (leastKey_of_least hdown hleast)]
    refine ⟨_, rfl, ?_, fun r hr => State.reg_setReg_other _ _ (List.ne_of_not_mem_cons hr), rfl,
      State.retire_forward _, ((s.setKeys_changesOnly keys).mono (by decide)).trans
        ((((s.setKeys keys).setReg_setAwait_changesOnly _ _ _).retire _ _).mono (by decide))⟩
    exact (congrArg BitVec.toNat (State.reg_setReg_same _ _ _)).trans (keyByte_toNat k)
  · rw [awaitKey_noKey (s := s.setKeys keys) (leastKey_none.mpr hup)]
    exact ⟨_, rfl, rfl, ((s.setKeys_changesOnly keys).mono (by decide)).trans
      (((s.setKeys keys).retire_here_changesOnly false).mono (by decide))⟩

theorem State.setAwait_self {s : State} (h : s.await = true) : s.setAwait true s.awaitX = s := by
  rw [State.setAwait, ← h]

/-- Waiting on is executing the awaited `FX0A` afresh: with a key down both complete it, with none both go on waiting. -/
theorem awaitKey_eq_exec_opFX0A {s : State} (h : s.await = true) :
    awaitKey s = exec (.opFX0A s.awaitX) (s.setAwait false s.awaitX) := by
  cases hkey : leastKey s.keys with
  | some k =>
    rw [awaitKey_key hkey, exec_opFX0A_key (s := s.setAwait false s.awaitX) hkey]
    rfl
  | none =>
    rw [awaitKey_noKey hkey, exec_opFX0A_noKey (s := s.setAwait false s.awaitX) hkey]
    exact congrArg (fun t : State => t.commit s.pc false) (State.setAwait_self h).symm

/-- Settles O14: with the wait lifted the `Step` fetches the awaited `FX0A` again. -/
theorem awaitingEqualsReexecution : Obligations.AwaitingEqualsReexecution := by
  intro s keys hreset hawait hpending
  obtain ⟨w, hfetch, hdecode⟩ := hpending hawait
  have hagain : stepInstruction ((s.setAwait false s.awaitX).setKeys keys) =
      exec (.opFX0A s.awaitX) ((s.setAwait false s.awaitX).setKeys keys) :=
    stepInstruction_decoded rfl hfetch hdecode
  rw [perform_step_awaiting hreset hawait, perform_step (s := s.setAwait false s.awaitX) hreset, hagain]
  exact awaitKey_eq_exec_opFX0A (s := s.setKeys keys) hawait

/-! ## `Tick` -/

theorem perform_tick {s : State} (h : s.resetDone = true) : perform .tick s = .next s.tick := by
  rw [perform, if_pos h]

theorem countDown_toNat (b : Byte) : (countDown b).toNat = b.toNat - 1 := by
  by_cases hb : b = 0
  · rw [countDown, if_pos hb, hb]
    rfl
  · rw [countDown, if_neg hb]
    bv_omega

@[simp] theorem State.tick_st_toNat (s : State) : s.tick.st.toNat = s.st.toNat - 1 := countDown_toNat s.st
@[simp] theorem State.tick_dt_toNat (s : State) : s.tick.dt.toNat = s.dt.toNat - 1 := countDown_toNat s.dt

theorem State.tick_reply (s : State) : s.tick.reply = { beep := decide (s.st.toNat = 1) } := by
  have hone : s.st = 1 ↔ s.st.toNat = 1 := BitVec.toNat_inj.symm
  simp only [State.tick, State.setReply_reply, hone]

theorem State.tick_changesOnly (s : State) : ChangesOnly [.delay, .sound, .reply] s s.tick := by
  intro p hp
  cases p <;> simp [Part.same, State.tick] at hp ⊢

/-! ## What a `Step` does to the timers -/

theorem exec_dt {i : Instr} {s t : State} (h : exec i s = .next t) (hdt : ∀ x, i ≠ .opFX15 x) : t.dt = s.dt := by
  cases i with
  | opFX15 x => exact absurd rfl (hdt x)
  | _ => exact exec_changesOnly h .delay (by simp [mayChange])

theorem awaitKey_timers {s t : State} (h : awaitKey s = .next t) : t.dt = s.dt ∧ t.st = s.st := by
  obtain ⟨_, _, rfl⟩ | ⟨_, rfl⟩ := awaitKey_next h
  · exact ⟨rfl, rfl⟩
  · exact ⟨rfl, rfl⟩

/-- A `Step` moves the delay timer only by an `FX15`, and the sound timer only by an `FX18`. -/
theorem stepInstruction_timers {s t : State} (h : stepInstruction s = .next t) :
    (t.dt = s.dt ∨ (s.await = false ∧ ∃ w x, s.fetch = .ok w ∧ decode w = .ok (.opFX15 x))) ∧
    (t.st = s.st ∨ (s.await = false ∧ ∃ w x, s.fetch = .ok w ∧ decode w = .ok (.opFX18 x))) := by
  obtain ⟨_, hkey⟩ | ⟨hidle, w, i, hfetch, hdecode, hexec⟩ := stepInstruction_next h
  · obtain ⟨hdt, hst⟩ := awaitKey_timers hkey
    exact ⟨.inl hdt, .inl hst⟩
  · constructor
    · by_cases hload : ∃ x, i = .opFX15 x
      · obtain ⟨x, rfl⟩ := hload
        exact .inr ⟨hidle, w, x, hfetch, hdecode⟩
      · exact .inl (exec_dt hexec fun x he => hload ⟨x, he⟩)
    · by_cases hload : ∃ x, i = .opFX18 x
      · obtain ⟨x, rfl⟩ := hload
        exact .inr ⟨hidle, w, x, hfetch, hdecode⟩
      · exact .inl (exec_st hexec fun x he => hload ⟨x, he⟩)

/-- Settles O26: `Tick` is two countdowns and its result, and a `Step` loads a timer but never counts one. -/
theorem tickCountsBothTimersDown : Obligations.TickCountsBothTimersDown :=
  ⟨fun s hreset => ⟨s.tick, perform_tick hreset, s.tick_dt_toNat, s.tick_st_toNat, s.tick_reply, s.tick_changesOnly⟩,
    fun s _ keys h => stepInstruction_timers (s := s.setKeys keys) (perform_step_next h)⟩

/-! ## The beep -/

theorem respond_tick {s : State} (h : s.resetDone = true) : respond .tick s = s.tick := by
  rw [respond, perform_tick h]

/-- Each `Tick` before the last takes one from `ST`, and the last finds it at 1 (R168, D16). -/
theorem drive_ticks_beep {s : State} (n : Nat) (h : s.resetDone = true) :
    (drive (List.replicate (n + 1) .tick) s).reply.beep = true ↔ s.st.toNat = n + 1 := by
  induction n generalizing s with
  | zero => simp [drive, respond_tick h, State.tick_reply]
  | succ n ih =>
    rw [List.replicate_succ, drive, respond_tick h, ih (s := s.tick) h, State.tick_st_toNat]
    omega

/-- Every instruction that completes ends in the commit of R86. -/
theorem exec_retires {i : Instr} {s t : State} (h : exec i s = .next t) : ∃ u np d, t = State.retire u np d := by
  cases i with
  | op00EE =>
    obtain ⟨_, _, _, rfl⟩ := exec00EE_next h
    exact ⟨_, _, _, rfl⟩
  | op2NNN =>
    obtain ⟨_, _, rfl⟩ := exec2NNN_next h
    exact ⟨_, _, _, rfl⟩
  | opDXYN =>
    obtain ⟨_, _, rfl⟩ := execDXYN_next h
    exact ⟨_, _, _, rfl⟩
  | opFX0A =>
    obtain ⟨_, _, rfl⟩ | ⟨_, rfl⟩ := execFX0A_next h
    · exact ⟨_, _, _, rfl⟩
    · exact ⟨_, _, _, rfl⟩
  | opFX33 =>
    obtain ⟨_, _, rfl⟩ := execFX33_next h
    exact ⟨_, _, _, rfl⟩
  | opFX55 =>
    obtain ⟨_, _, rfl⟩ := execFX55_next h
    exact ⟨_, _, _, rfl⟩
  | opFX65 =>
    obtain ⟨_, _, rfl⟩ := execFX65_next h
    exact ⟨_, _, _, rfl⟩
  | _ =>
    obtain rfl := Host.Outcome.next.inj h
    exact ⟨_, _, _, rfl⟩

/-- Every `Step` that completes, an awaiting one too, ends in the commit of R86, and the commit never beeps. -/
theorem stepInstruction_beep {s t : State} (h : stepInstruction s = .next t) : t.reply.beep = false := by
  obtain ⟨_, hkey⟩ | ⟨_, _, _, _, _, hexec⟩ := stepInstruction_next h
  · obtain ⟨_, _, rfl⟩ | ⟨_, rfl⟩ := awaitKey_next hkey
    · rfl
    · rfl
  · obtain ⟨_, _, _, rfl⟩ := exec_retires hexec
    rfl

/-- Settles O27: at least one `Tick` is a successor of `Tick`s, and a `Step` commits. -/
theorem beepComesOnTheLastTick : Obligations.BeepComesOnTheLastTick := by
  refine ⟨fun s n hreset hn => ?_, fun s _ keys h => stepInstruction_beep (perform_step_next h)⟩
  obtain ⟨m, rfl⟩ := Nat.exists_eq_add_of_le' hn
  exact drive_ticks_beep m hreset

end Sys2Proof.Machine
end

section
/-! Family 60_exceptions: which operations fail and when, and what the machine is after an error (O9 to O11). -/

namespace Sys2Proof.Machine

/-! ## The errors of an instruction -/

section Outcomes
variable {o : Host.Outcome State Fault Refusal} {f : Fault}

/-- An operation that completes has no error. -/
theorem fault_iff_of_next (h : ∃ t, o = .next t) : o = .fault f ↔ none = some f := by
  obtain ⟨t, rfl⟩ := h
  exact ⟨nofun, nofun⟩

/-- An operation that fails with `e` under the condition `p`, and completes without it. -/
theorem fault_iff_of_condition {p : Prop} [Decidable p] {e : Fault} (hfail : p → o = .fault e)
    (hcomplete : ¬ p → ∃ t, o = .next t) : o = .fault f ↔ (if p then some e else none) = some f := by
  by_cases hp : p
  · rw [hfail hp, if_pos hp, Host.Outcome.fault.injEq, Option.some.injEq]
  · rw [if_neg hp]
    exact fault_iff_of_next (hcomplete hp)

end Outcomes

/-- An instruction fails exactly when its row of R171 says so. The six instructions that have a row are named; `FX0A`
has none, and completes in either of its two ways. -/
theorem exec_fault_iff (i : Instr) (s : State) (f : Fault) : exec i s = .fault f ↔ ownError i s = some f := by
  cases i with
  | opDXYN => exact fault_iff_of_condition exec_opDXYN_outOfBounds fun hin => ⟨_, exec_opDXYN_inBounds (by omega)⟩
  | opFX33 => exact fault_iff_of_condition exec_opFX33_outOfBounds fun hin => ⟨_, exec_opFX33_inBounds (not_lt.mp hin)⟩
  | opFX55 => exact fault_iff_of_condition exec_opFX55_outOfBounds fun hin => ⟨_, exec_opFX55_inBounds (not_lt.mp hin)⟩
  | opFX65 => exact fault_iff_of_condition exec_opFX65_outOfBounds fun hin => ⟨_, exec_opFX65_inBounds (not_lt.mp hin)⟩
  | op2NNN nnn =>
    exact fault_iff_of_condition (exec_op2NNN_full nnn) fun hroom => ⟨_, exec_op2NNN_room nnn (by omega)⟩
  | op00EE =>
    exact fault_iff_of_condition exec_op00EE_empty fun hlive =>
      ⟨_, exec_op00EE_live (k := ⟨s.sp.val - 1, by omega⟩) (Nat.succ_pred hlive).symm⟩
  | opFX0A x =>
    cases hkey : leastKey s.keys with
    | some k => exact fault_iff_of_next ⟨_, exec_opFX0A_key hkey⟩
    | none => exact fault_iff_of_next ⟨_, exec_opFX0A_noKey hkey⟩
  | _ => exact fault_iff_of_next ⟨_, rfl⟩

/-! ## The errors of a `Step` -/

theorem State.fetch_error_iff (s : State) (f : Fault) :
    s.fetch = .error f ↔ s.pc.toNat > 0xFFE ∧ f = .outOfBounds := by
  by_cases hpc : s.pc.toNat + 1 < 4096
  · rw [s.fetch_ok hpc]
    exact ⟨nofun, fun hout => by omega⟩
  · rw [s.fetch_error hpc, Except.error.injEq, eq_comm, and_iff_right (by omega)]

/-- A word is unknown exactly when no row of the opcode map selects it (R85). -/
theorem decode_unknown_iff (w : Word) :
    decode w = .error .unknownOpcode ↔ ∀ r ∈ opcodeMap, r.selects w = false := by
  refine ⟨fun hunknown r hr => Bool.eq_false_iff.mpr fun hw => ?_, decode_unknown_of_no_row⟩
  obtain ⟨i, hi, -⟩ := decode_of_selects hr hw
  cases hi.symm.trans hunknown

theorem decode_error_eq {w : Word} {e : DecodeError} (h : decode w = .error e) : e = .unknownOpcode := by
  unfold decode at h
  split at h
  · cases h
  · exact (Except.error.inj h).symm

/-- The errors of a `Step` on this state as R171 tables them, in the order of R173. -/
def State.StepFails (s : State) (f : Fault) : Prop :=
  s.await = false ∧
    ((s.pc.toNat > 0xFFE ∧ f = .outOfBounds) ∨
      ∃ w, s.fetch = .ok w ∧
        (((∀ r ∈ opcodeMap, r.selects w = false) ∧ f = .unknownOpcode) ∨ ∃ i, decode w = .ok i ∧ ownError i s = some f))

theorem awaitKey_ne_fault (s : State) (f : Fault) : awaitKey s ≠ .fault f := by
  unfold awaitKey
  split
  · nofun
  · nofun

/-- A `Step` fails as R171 tables it: an awaiting one never, any other by its fetch, its word or its instruction. -/
theorem stepInstruction_fault_iff (s : State) (f : Fault) : stepInstruction s = .fault f ↔ s.StepFails f := by
  rw [State.StepFails, ← s.fetch_error_iff f]
  cases hawait : s.await with
  | true =>
    rw [stepInstruction_awaiting hawait]
    exact ⟨fun hfault => absurd hfault (awaitKey_ne_fault s f), nofun⟩
  | false =>
    cases hfetch : s.fetch with
    | error e =>
      rw [stepInstruction_fetch_error hawait hfetch]
      simp
    | ok w =>
      simp only [← decode_unknown_iff]
      cases hdecode : decode w with
      | error e =>
        obtain rfl := decode_error_eq hdecode
        rw [stepInstruction_unknown hawait hfetch hdecode]
        simp [hdecode, eq_comm]
      | ok i =>
        rw [stepInstruction_decoded hawait hfetch hdecode, exec_fault_iff]
        simp [hdecode]

/-- Neither the keys sampled nor the result of the operation before decides whether a `Step` fails. -/
theorem State.stepFails_setKeys (s : State) (keys : KeyVector) (f : Fault) :
    (s.setKeys keys).StepFails f ↔ s.StepFails f := Iff.rfl

theorem State.stepFails_setReply (s : State) (r : Reply) (f : Fault) :
    (s.setReply r).StepFails f ↔ s.StepFails f := Iff.rfl

theorem perform_step_fault_iff {s : State} (h : s.resetDone = true) (keys : KeyVector) (f : Fault) :
    perform (.step keys) s = .fault f ↔ s.StepFails f := by
  rw [perform_step h, stepInstruction_fault_iff, State.stepFails_setKeys]

/-! ## The errors of the other operations -/

theorem State.loadProgram_err (s : State) (image : List Byte) :
    (s.loadProgram image).reply.err = if image.length > 0xE00 then .programTooLarge else .none := by
  by_cases hlarge : image.length > 0xE00
  · rw [s.loadProgram_tooLarge hlarge, if_pos hlarge, State.setReply_reply]
  · rw [s.loadProgram_fits (not_lt.mp hlarge), if_neg hlarge, State.setReply_reply]

/-- Settles O9: a `Step` as `StepFails` tables it; of the other four operations only `LoadProgram` has an error. -/
theorem errorsAreExactlyThoseOfTheTable : Obligations.ErrorsAreExactlyThoseOfTheTable :=
  ⟨fun _ keys f hreset => perform_step_fault_iff hreset keys f,
    fun s image hreset => ⟨_, perform_loadProgram hreset image, s.loadProgram_err image⟩,
    fun _ hreset => ⟨_, perform_tick hreset, rfl⟩,
    fun _ c hreset => ⟨_, perform_readCell hreset c, rfl⟩,
    fun _ => ⟨_, rfl, rfl⟩⟩

/-! ## After an error -/

theorem respond_of_fault {c : Command} {s : State} {f : Fault} (h : perform c s = .fault f) :
    respond c s = s.setReply { err := f.err } := by
  rw [respond, h]

theorem respond_loadProgram_tooLarge {s : State} (hreset : s.resetDone = true) {image : List Byte}
    (hlarge : image.length > 0xE00) : respond (.loadProgram image) s = s.setReply { err := .programTooLarge } := by
  rw [respond, perform_loadProgram hreset, s.loadProgram_tooLarge hlarge]

theorem resetDone_of_perform_fault {keys : KeyVector} {s : State} {f : Fault} (h : perform (.step keys) s = .fault f) :
    s.resetDone = true := by
  by_contra hreset
  rw [perform, if_neg hreset] at h
  cases h

/-- Settles O10: an error sets the reply and nothing else. -/
theorem anErrorLeavesTheMachineAsItWas : Obligations.AnErrorLeavesTheMachineAsItWas := by
  refine ⟨fun c s f hfault => ?_, fun s image hreset hlarge => ?_⟩
  · rw [respond_of_fault hfault]
    exact ⟨s.setReply_changesOnly _, rfl, rfl, rfl⟩
  · rw [respond_loadProgram_tooLarge hreset hlarge]
    exact ⟨s.setReply_changesOnly _, rfl⟩

/-- Settles O11: whether a `Step` fails does not depend on the keys, nor on the reply, which is all an error sets. -/
theorem aRepeatedStepRepeatsTheError : Obligations.ARepeatedStepRepeatsTheError := by
  intro s keys keys' f hfault
  have hreset := resetDone_of_perform_fault hfault
  have hfails := (perform_step_fault_iff hreset keys f).mp hfault
  rw [respond_of_fault hfault]
  exact (perform_step_fault_iff (s := s.setReply { err := f.err }) hreset keys' f).mpr
    ((s.stepFails_setReply _ f).mpr hfails)

end Sys2Proof.Machine
end

section
/-! Family 70_reset_and_hazards: the operations before the first `Reset`, the state a `Reset` leaves, and the jump to self (O12, O21, O29). -/

namespace Sys2Proof.Machine

/-! ## Before the first `Reset` -/

/-- Settles O12: each of the four other commands asks for the flag first, and `Reset` sets it. -/
theorem beforeTheFirstResetNothingRuns : Obligations.BeforeTheFirstResetNothingRuns := by
  refine ⟨fun c s hreset hc => ?_, fun s => ⟨s.doReset, rfl, rfl⟩⟩
  have hunset : ¬ s.resetDone = true := ne_true_of_eq_false hreset
  cases c with
  | reset => exact absurd rfl hc
  | loadProgram | step | tick | readCell => exact if_neg hunset

/-! ## The state after `Reset` -/

theorem State.doReset_byteAt (s : State) (a : Nat) : s.doReset.byteAt a = s.font[a]?.getD 0 := byteAt_nil rfl a

/-- The first 80 bytes are the machine's own font (R51, D20). -/
theorem State.doReset_byteAt_font (s : State) (k : Fin 80) : s.doReset.byteAt k.val = s.font[k] := by
  rw [State.doReset_byteAt, Vector.getElem?_eq_getElem k.isLt]
  rfl

/-- Above the font's 80 bytes memory is 0, whatever the font (R200). -/
theorem State.doReset_byteAt_above_font (s : State) {a : Nat} (ha : 80 ≤ a) : s.doReset.byteAt a = 0 := by
  rw [State.doReset_byteAt, Vector.getElem?_eq_none ha]
  rfl

theorem reset_stk (k : Fin 16) : State.reset.stk[k] = 0 :=
  Vector.getElem_replicate _

/-- Settles O21: memory is read above; registers, stack and cells are those of `State.reset`, and the other fields are
literals or kept. -/
theorem resetInitialisesEverything : Obligations.ResetInitialisesEverything := fun s =>
  ⟨s.doReset, rfl, s.doReset_byteAt_font, fun _ => s.doReset_byteAt_above_font, reset_reg, rfl, rfl, rfl, reset_stk,
    rfl, rfl, reset_cell, rfl, rfl, rfl, rfl, rfl⟩

/-! ## The jump to self -/

/-- The word of a jump is 0x1000 and its address (R84). -/
theorem encode_op1NNN (nnn : Addr12) : encode (.op1NNN nnn) = 0x1000#16 + zext12 nnn := by
  have hbound : 0x1000 + nnn.toNat < 2 ^ 16 := by
    have := nnn.isLt
    omega
  refine BitVec.eq_of_toNat_eq ?_
  calc (0x1#4 ++ nnn).toNat
    _ = 0x1000 + nnn.toNat := by rw [BitVec.toNat_append, ← Nat.shiftLeft_add_eq_or_of_lt nnn.isLt]; rfl
    _ = (0x1000#16 + zext12 nnn).toNat := by rw [BitVec.toNat_add, zext12_toNat]; exact (Nat.mod_eq_of_lt hbound).symm

/-- An address inside memory is the operand of a jump. -/
theorem exists_zext12_eq {w : Word} (h : w.toNat < 4096) : ∃ nnn, zext12 nnn = w :=
  ⟨BitVec.ofNat 12 w.toNat, BitVec.eq_of_toNat_eq (by rw [zext12_toNat, BitVec.toNat_ofNat, Nat.mod_eq_of_lt h])⟩

/-- The word that jumps to where it stands decodes to the jump to `PC`: a word can be fetched at 0x000 to 0xFFE only,
so `PC` fits the operand (R55, R102). -/
theorem State.fetch_jumpToSelf {s : State} (h : s.fetch = .ok (0x1000#16 + s.pc)) :
    ∃ nnn, zext12 nnn = s.pc ∧ decode (0x1000#16 + s.pc) = .ok (.op1NNN nnn) := by
  obtain ⟨nnn, hnnn⟩ := exists_zext12_eq (Nat.lt_of_le_of_lt (State.fetch_bound h) (by decide))
  exact ⟨nnn, hnnn, by rw [← hnnn, ← encode_op1NNN, decode_encode]⟩

@[simp] theorem State.setKeys_self (s : State) : s.setKeys s.keys = s := rfl

/-- Settles O29: the step is `Step`, the word fetched is the jump to `PC`, and the jump's commit puts `PC` where it is. -/
theorem jumpToSelfIsAFixedPoint : Obligations.JumpToSelfIsAFixedPoint := by
  intro s hreset hschedule hawait hfetch
  obtain ⟨nnn, hnnn, hdecode⟩ := State.fetch_jumpToSelf hfetch
  have hstep : step s = .next (s.retire s.pc false) :=
    calc step s
      _ = perform (.step s.keys) s := step_of_schedule_nil hschedule
      _ = stepInstruction s := by rw [perform_step hreset, State.setKeys_self]
      _ = exec (.op1NNN nnn) s := stepInstruction_decoded hawait hfetch hdecode
      _ = .next (s.retire s.pc false) := by rw [exec, exec1NNN, hnnn, State.commit]
  exact ⟨_, hstep, rfl, s.retire_here_changesOnly false⟩

end Sys2Proof.Machine
end
